-- ==== Sys2Proof/Word.lean ====
section
/-! DEFINITION. The word types of the machine: a byte, a 64-bit word and the four data widths of rule R7. -/

namespace Sys2Proof

/-- The smallest unit of memory and of the instruction stream (R50). -/
abbrev Byte := BitVec 8

/-- A 64-bit word: a general register (R20), a linear address of 64-bit mode (R51), or a `w`-bit data
value held zero-extended. -/
abbrev Word := BitVec 64

/-- "a byte, a word, a doubleword, or a quadword" (R7). -/
inductive Width where
  | w8 | w16 | w32 | w64
deriving DecidableEq, Repr

/-- The width in bytes (R7). -/
def Width.bytes : Width → Nat
  | .w8 => 1 | .w16 => 2 | .w32 => 4 | .w64 => 8

/-- The width in bits (R7). -/
def Width.bits : Width → Nat
  | .w8 => 8 | .w16 => 16 | .w32 => 32 | .w64 => 64

end Sys2Proof
end

