-- ==== Sys2Proof/Config.lean ====
section
/-! DEFINITION. The implementation parameters of rule R5 and the free values.

A parameter that R5 marks OPEN or gives alternatives for is a field of `Impl`, carried by the state as plain
data and never written, so that a statement about every state is a statement about every choice. The values
the spec leaves free (`draw(N)`, R8) and the paging hook (`Translate`, R62) are constants with no body: no
proof can see what they are. -/

namespace Sys2Proof

/-- The two kinds of data access `Translate` distinguishes (R62). -/
inductive AccessKind where
  | read | write
deriving DecidableEq, Repr, Inhabited

/-- What `Translate` answers: a physical address or a page fault with its code (R62). PRESUMED: the spec gives the code no
width (R58, R217), the model gives it the family's 32 bits (log 27). -/
inductive Translation where
  | phys (a : Word)
  | pageFault (code : BitVec 32)
deriving DecidableEq, Repr, Inhabited

/-- `SREG_HI16` (R5, R146): bits 31:16 of a 32-bit register destination of opcode 8C. -/
inductive SregHi16 where
  | zero | undefined
deriving DecidableEq, Repr, Inhabited

/-- `VA_BITS` (R5, R56): 48, or 57 with five-level paging. -/
inductive VaBits where
  | va48 | va57
deriving DecidableEq, Repr, Inhabited

/-- `DATA_SEG_PRIV_RULE` (R5, R153): the privilege test of a DS, ES, FS or GS load. -/
inductive PrivRule where
  | both | either
deriving DecidableEq, Repr, Inhabited

/-- `SREG_MEM_BYTES` (R5, R147): 2 always, or the operand size in bytes. -/
inductive SregMemBytes where
  | two | operandSize
deriving DecidableEq, Repr, Inhabited

/-- `NULL_LOAD_BASE` (R5, R150): the hidden base, limit and attributes after a NULL-selector load. -/
inductive NullLoadBase where
  | zero | unchanged | unspecified
deriving DecidableEq, Repr, Inhabited

/-- The implementation parameters (R5) that a step consults. The parameters with a single value in R5
(`MAX_INSN_LEN`, `REPNE_REP_POLICY`, `REX_R_ON_SREG`, `SS_CHAIN`) are written into the model; `FAULT_ORDER` is
`Config.pick`; `ac_on` is computed from the state. -/
structure Impl where
  /-- `HAS_LONG_MODE`: whether modes `Long64` and `Compat` exist. -/
  hasLongMode : Bool
  sregHi16 : SregHi16
  vaBits : VaBits
  dataSegPrivRule : PrivRule
  sregMemBytes : SregMemBytes
  /-- `SET_ACCESSED`: whether a descriptor load writes the accessed bit in memory. -/
  setAccessed : Bool
  nullLoadBase : NullLoadBase
deriving DecidableEq, Repr

/-- `Translate` (R62, D8): CR3, the contents of memory (page tables lie there), the linear address, the kind of
access and whether it is made at user privilege. OPEN in the spec, so it has no body. -/
opaque Config.translate : Word → List Host.Cell → Word → AccessKind → Bool → Translation

/-- `draw(N)` (R8): the `n`-th value about which nothing may be assumed; a narrower draw takes its low bits. -/
opaque Config.draw : Nat → Word

/-- `FAULT_ORDER` (R5, R222): which of several exceptions the spec leaves unordered is reported. -/
opaque Config.pick : Nat → Nat

/-- `HAS_LONG_MODE` of the reset machine: OPEN (D37). -/
opaque Config.hasLongMode : Bool

/-- `DATA_SEG_PRIV_RULE` of the reset machine: OPEN (D3), the model gives no single answer. -/
opaque Config.dataSegPrivRule : PrivRule

/-- `SREG_HI16` of the reset machine: "implementation dependent" (R146). -/
opaque Config.sregHi16 : SregHi16

/-- `MAX_INSN_LEN` (R5, R100). -/
def Config.maxInsnLen : Nat := 15

/-- The parameters of the reset machine: the defaults of R5 and `92_eei_decisions.md` (D4, D5, D6, D7), and the
body-less constants where the spec gives no default. -/
def Config.impl : Impl where
  hasLongMode := Config.hasLongMode
  sregHi16 := Config.sregHi16
  vaBits := .va48
  dataSegPrivRule := Config.dataSegPrivRule
  sregMemBytes := .two
  setAccessed := true
  nullLoadBase := .unspecified

end Sys2Proof
end

