-- ==== Sys2Proof/Syntax.lean ====
section
/-! DEFINITION. The abstract syntax of the 34 MOV forms: one constructor of `Instr` per row of the opcode table
(R101), carrying everything the bytes say, so that the length (R100) and the encoding can be computed back. -/

namespace Sys2Proof

/-- The five operating modes (R33). -/
inductive Mode where
  | real | prot | v86 | compat | long64
deriving DecidableEq, Repr

/-- What decoding needs to know of the machine: the mode (R33) and the default-size bit of the code segment (R34). -/
structure Ctx where
  mode : Mode
  csD : Bool
deriving DecidableEq, Repr

/-- The six segment registers (R27). -/
inductive SReg where
  | es | cs | ss | ds | fs | gs
deriving DecidableEq, Repr

/-- The REX prefix `0100WRXB` (R82). -/
structure Rex where
  w : Bool
  r : Bool
  x : Bool
  b : Bool
deriving DecidableEq, Repr

/-- The bytes before the opcode (R81, R82): at most one of each group, then at most one REX (R83). -/
structure Prefixes where
  /-- F0H (R104). -/
  lock : Bool
  /-- 26H, 2EH, 36H, 3EH, 64H, 65H (R95). -/
  seg : Option SReg
  /-- 66H (R84). -/
  opsz : Bool
  /-- 67H (R85). -/
  adsz : Bool
  rex : Option Rex
deriving DecidableEq, Repr

/-- No prefix byte at all. -/
def Prefixes.empty : Prefixes := ⟨false, none, false, false, none⟩

/-- The base and index registers of 16-bit addressing, in the order of ModRM.rm (R89). -/
inductive Base16 where
  | bxSi | bxDi | bpSi | bpDi | si | di | bp | bx
deriving DecidableEq, Repr

/-- The displacement that `mod` announces: none (00), one byte (01), or `w` bits (10) (R89, R92). -/
inductive Disp (w : Nat) where
  | none
  | short (d : Byte)
  | full (d : BitVec w)
deriving DecidableEq, Repr

/-- The memory operand a ModRM byte with `mod` other than 11 names (R89 to R93). The register fields are the three
bits of the encoding; the REX bits that extend them are in `Prefixes`. -/
inductive MemRef where
  /-- 16-bit addressing with registers (R89); `mod = 00`, `rm = 110` is `abs16`. -/
  | based16 (b : Base16) (d : Disp 16)
  /-- 16-bit addressing, `mod = 00`, `rm = 110`: a displacement and no register (R89). -/
  | abs16 (d : BitVec 16)
  /-- 32/64-bit addressing without SIB (R90). -/
  | based (rm : BitVec 3) (d : Disp 32)
  /-- `mod = 00`, `rm = 101`: `disp32` outside `Long64` (R90), RIP-relative in it (R93). -/
  | disp32 (d : BitVec 32)
  /-- SIB with a base register (R91). -/
  | sib (scale : BitVec 2) (index base : BitVec 3) (d : Disp 32)
  /-- SIB with `mod = 00`, `base = 101`: no base register, a `disp32` (R91). -/
  | sibAbs (scale : BitVec 2) (index : BitVec 3) (d : BitVec 32)
deriving DecidableEq, Repr

/-- The operand "ModRM:r/m": a register when `mod = 11`, else memory (R88). -/
inductive RM where
  | reg (rm : BitVec 3)
  | mem (m : MemRef)
deriving DecidableEq, Repr

/-- The offset of a `moffs` operand, `adsize` bits wide (R97, R170). -/
inductive Moffs where
  | off16 (o : BitVec 16)
  | off32 (o : BitVec 32)
  | off64 (o : BitVec 64)
deriving DecidableEq, Repr

/-- The 34 forms, in the order of R101. `p` holds the prefixes, `reg` ModRM.reg, `rm` ModRM:r/m, `r` the low three
bits of a `+r` opcode, `m` the offset. -/
inductive Instr where
  /-- Row 1, 88 /r (R122). -/
  | movRm8R8 (p : Prefixes) (reg : BitVec 3) (rm : RM)
  /-- Row 2, REX + 88 /r (R123). -/
  | movRm8R8Rex (p : Prefixes) (reg : BitVec 3) (rm : RM)
  /-- Row 3, 89 /r (R124). -/
  | movRm16R16 (p : Prefixes) (reg : BitVec 3) (rm : RM)
  /-- Row 4, 89 /r (R125). -/
  | movRm32R32 (p : Prefixes) (reg : BitVec 3) (rm : RM)
  /-- Row 5, REX.W + 89 /r (R126). -/
  | movRm64R64 (p : Prefixes) (reg : BitVec 3) (rm : RM)
  /-- Row 6, 8A /r (R127). -/
  | movR8Rm8 (p : Prefixes) (reg : BitVec 3) (rm : RM)
  /-- Row 7, REX + 8A /r (R128). -/
  | movR8Rm8Rex (p : Prefixes) (reg : BitVec 3) (rm : RM)
  /-- Row 8, 8B /r (R129). -/
  | movR16Rm16 (p : Prefixes) (reg : BitVec 3) (rm : RM)
  /-- Row 9, 8B /r (R130). -/
  | movR32Rm32 (p : Prefixes) (reg : BitVec 3) (rm : RM)
  /-- Row 10, REX.W + 8B /r (R131). -/
  | movR64Rm64 (p : Prefixes) (reg : BitVec 3) (rm : RM)
  /-- Row 11, 8C /r (R140). -/
  | movRm16Sreg (p : Prefixes) (reg : BitVec 3) (rm : RM)
  /-- Row 12, REX.W + 8C /r (R141). -/
  | movRm64Sreg (p : Prefixes) (reg : BitVec 3) (rm : RM)
  /-- Row 13, 8E /r (R142). -/
  | movSregRm16 (p : Prefixes) (reg : BitVec 3) (rm : RM)
  /-- Row 14, REX.W + 8E /r (R143). -/
  | movSregRm64 (p : Prefixes) (reg : BitVec 3) (rm : RM)
  /-- Row 15, A0 (R171). -/
  | movAlMoffs8 (p : Prefixes) (m : Moffs)
  /-- Row 16, REX.W + A0 (R172). -/
  | movAlMoffs8RexW (p : Prefixes) (m : Moffs)
  /-- Row 17, A1 (R173). -/
  | movAxMoffs16 (p : Prefixes) (m : Moffs)
  /-- Row 18, A1 (R174). -/
  | movEaxMoffs32 (p : Prefixes) (m : Moffs)
  /-- Row 19, REX.W + A1 (R175). -/
  | movRaxMoffs64 (p : Prefixes) (m : Moffs)
  /-- Row 20, A2 (R176). -/
  | movMoffs8Al (p : Prefixes) (m : Moffs)
  /-- Row 21, REX.W + A2 (R177). -/
  | movMoffs8AlRexW (p : Prefixes) (m : Moffs)
  /-- Row 22, A3 (R178). -/
  | movMoffs16Ax (p : Prefixes) (m : Moffs)
  /-- Row 23, A3 (R179). -/
  | movMoffs32Eax (p : Prefixes) (m : Moffs)
  /-- Row 24, REX.W + A3 (R180). -/
  | movMoffs64Rax (p : Prefixes) (m : Moffs)
  /-- Row 25, B0+ rb ib (R191). -/
  | movR8Imm8 (p : Prefixes) (r : BitVec 3) (imm : BitVec 8)
  /-- Row 26, REX + B0+ rb ib (R192). -/
  | movR8Imm8Rex (p : Prefixes) (r : BitVec 3) (imm : BitVec 8)
  /-- Row 27, B8+ rw iw (R193). -/
  | movR16Imm16 (p : Prefixes) (r : BitVec 3) (imm : BitVec 16)
  /-- Row 28, B8+ rd id (R194). -/
  | movR32Imm32 (p : Prefixes) (r : BitVec 3) (imm : BitVec 32)
  /-- Row 29, REX.W + B8+ rd io (R195). -/
  | movR64Imm64 (p : Prefixes) (r : BitVec 3) (imm : BitVec 64)
  /-- Row 30, C6 /0 ib (R196). -/
  | movRm8Imm8 (p : Prefixes) (rm : RM) (imm : BitVec 8)
  /-- Row 31, REX + C6 /0 ib (R197). -/
  | movRm8Imm8Rex (p : Prefixes) (rm : RM) (imm : BitVec 8)
  /-- Row 32, C7 /0 iw (R198). -/
  | movRm16Imm16 (p : Prefixes) (rm : RM) (imm : BitVec 16)
  /-- Row 33, C7 /0 id (R199). -/
  | movRm32Imm32 (p : Prefixes) (rm : RM) (imm : BitVec 32)
  /-- Row 34, REX.W + C7 /0, immediate read as `id` (R200). -/
  | movRm64Imm32 (p : Prefixes) (rm : RM) (imm : BitVec 32)
deriving DecidableEq, Repr

/-- Why bytes are not decoded to one of the 34 forms (D28: the step refuses, it raises no exception). -/
inductive Reject where
  /-- The bytes end before the instruction does. -/
  | truncated
  /-- F2H or F3H stands before the opcode (R106). -/
  | repPrefix
  /-- A repeated prefix group, or a REX that is not directly before the opcode (R83). -/
  | prefixArrangement
  /-- The opcode byte is not in R101 (R105). -/
  | notMov (op : Byte)
  /-- C6 or C7 with ModRM.reg other than 000 (R105). -/
  | notMovGroup (op : Byte) (reg : BitVec 3)
deriving DecidableEq, Repr

end Sys2Proof
end

