-- ==== Sys2Proof/Decode.lean ====
section
/-! DEFINITION. Decoding of the 34 forms from bytes (file 30_encoding.md), total on any bytes and rejecting by name,
and the encoder written from the same tables. -/

namespace Sys2Proof

/-! ## Little-endian byte order (R50) -/

/-- The value of a list of bytes, the least significant first (R50); at most eight bytes count. -/
def leValue : List Byte → Word
  | [] => 0
  | b :: bs => b.setWidth 64 ||| (leValue bs <<< 8)

/-- The low `n` bytes of a value, the least significant first (R50). -/
def leBytes : Nat → Word → List Byte
  | 0, _ => []
  | n + 1, v => v.setWidth 8 :: leBytes n (v >>> 8)

/-! ## Operand size and address size (R84, R85) -/

/-- Effective operand sizes of the forms that are not byte forms (R84). -/
inductive OpSize where
  | o16 | o32 | o64
deriving DecidableEq, Repr

/-- Effective address sizes (R85). -/
inductive AdSize where
  | a16 | a32 | a64
deriving DecidableEq, Repr

/-- Whether a REX prefix is present (R22, R88). -/
def Prefixes.rexPresent (p : Prefixes) : Bool := p.rex.isSome

/-- REX.W, 0 without a REX prefix (R82). -/
def Prefixes.w (p : Prefixes) : Bool := match p.rex with | some x => x.w | none => false

/-- REX.R, 0 without a REX prefix (R82). -/
def Prefixes.r (p : Prefixes) : Bool := match p.rex with | some x => x.r | none => false

/-- REX.X, 0 without a REX prefix (R82). -/
def Prefixes.x (p : Prefixes) : Bool := match p.rex with | some x => x.x | none => false

/-- REX.B, 0 without a REX prefix (R82). -/
def Prefixes.b (p : Prefixes) : Bool := match p.rex with | some x => x.b | none => false

/-- `opsize` (R84). -/
def opSize (c : Ctx) (p : Prefixes) : OpSize :=
  match c.mode with
  | .long64 => if p.w then .o64 else if p.opsz then .o16 else .o32
  | _ => if c.csD == p.opsz then .o16 else .o32

/-- `adsize` (R85). -/
def adSize (c : Ctx) (p : Prefixes) : AdSize :=
  match c.mode with
  | .long64 => if p.adsz then .a32 else .a64
  | _ => if c.csD == p.adsz then .a16 else .a32

/-! ## Bytes from the instruction stream -/

/-- One byte. -/
def readU8 : List Byte → Except Reject (BitVec 8 × List Byte)
  | b :: bs => .ok (b, bs)
  | [] => .error .truncated

/-- Two bytes, low byte first (R50). -/
def readU16 : List Byte → Except Reject (BitVec 16 × List Byte)
  | a :: b :: bs => .ok (b ++ a, bs)
  | _ => .error .truncated

/-- Four bytes, low byte first (R50). -/
def readU32 : List Byte → Except Reject (BitVec 32 × List Byte)
  | a :: b :: c :: d :: bs => .ok (d ++ c ++ b ++ a, bs)
  | _ => .error .truncated

/-- Eight bytes, low byte first (R50). -/
def readU64 : List Byte → Except Reject (BitVec 64 × List Byte)
  | a :: b :: c :: d :: e :: f :: g :: h :: bs => .ok (h ++ g ++ f ++ e ++ d ++ c ++ b ++ a, bs)
  | _ => .error .truncated

/-- The bytes of a 16-bit field, low byte first (R50). -/
def bytes16 (v : BitVec 16) : List Byte := [v.extractLsb' 0 8, v.extractLsb' 8 8]

/-- The bytes of a 32-bit field, low byte first (R50). -/
def bytes32 (v : BitVec 32) : List Byte :=
  [v.extractLsb' 0 8, v.extractLsb' 8 8, v.extractLsb' 16 8, v.extractLsb' 24 8]

/-- The bytes of a 64-bit field, low byte first (R50). -/
def bytes64 (v : BitVec 64) : List Byte :=
  [v.extractLsb' 0 8, v.extractLsb' 8 8, v.extractLsb' 16 8, v.extractLsb' 24 8,
   v.extractLsb' 32 8, v.extractLsb' 40 8, v.extractLsb' 48 8, v.extractLsb' 56 8]

/-! ## Prefixes (R81, R82, R83) -/

/-- The segment-override byte of a segment register (R81). -/
def segOverrideByte : SReg → Byte
  | .es => 0x26 | .cs => 0x2E | .ss => 0x36 | .ds => 0x3E | .fs => 0x64 | .gs => 0x65

/-- The segment register a byte overrides to, if it is an override prefix (R81). -/
def segOverride (b : Byte) : Option SReg :=
  if b = 0x26#8 then some .es
  else if b = 0x2E#8 then some .cs
  else if b = 0x36#8 then some .ss
  else if b = 0x3E#8 then some .ds
  else if b = 0x64#8 then some .fs
  else if b = 0x65#8 then some .gs
  else none

/-- Whether a byte is one of the legacy prefixes of R81. -/
def isLegacyPrefix (b : Byte) : Bool :=
  b == 0xF0#8 || b == 0xF2#8 || b == 0xF3#8 || b == 0x66#8 || b == 0x67#8 || (segOverride b).isSome

/-- Whether a byte has the form `0100WRXB` (R82). -/
def isRexByte (b : Byte) : Bool := b.extractLsb' 4 4 == 0b0100#4

/-- The fields of a REX byte (R82). -/
def rexOfByte (b : Byte) : Rex := ⟨b.getLsbD 3, b.getLsbD 2, b.getLsbD 1, b.getLsbD 0⟩

/-- A REX byte from its fields (R82). -/
def Rex.byte (x : Rex) : Byte :=
  0b0100#4 ++ BitVec.ofBool x.w ++ BitVec.ofBool x.r ++ BitVec.ofBool x.x ++ BitVec.ofBool x.b

/-- The legacy prefixes, in any order, at most one of each group (R81, R83); F2H and F3H are refused (R106). -/
def readLegacy : Prefixes → List Byte → Except Reject (Prefixes × List Byte)
  | _, [] => .error .truncated
  | p, b :: bs =>
    if b = 0xF2#8 ∨ b = 0xF3#8 then .error .repPrefix
    else if b = 0xF0#8 then
      if p.lock then .error .prefixArrangement else readLegacy { p with lock := true } bs
    else if b = 0x66#8 then
      if p.opsz then .error .prefixArrangement else readLegacy { p with opsz := true } bs
    else if b = 0x67#8 then
      if p.adsz then .error .prefixArrangement else readLegacy { p with adsz := true } bs
    else
      match segOverride b with
      | some k =>
        if p.seg.isSome then .error .prefixArrangement else readLegacy { p with seg := some k } bs
      | none => .ok (p, b :: bs)

/-- The REX prefix, in mode `Long64` only (R82), which must stand directly before the opcode (R83). -/
def readRex (m : Mode) (p : Prefixes) : List Byte → Except Reject (Prefixes × List Byte)
  | [] => .error .truncated
  | b :: bs =>
    if m = .long64 ∧ isRexByte b = true then
      match bs with
      | [] => .error .truncated
      | op :: bs' =>
        if isLegacyPrefix op || isRexByte op then .error .prefixArrangement
        else .ok ({ p with rex := some (rexOfByte b) }, op :: bs')
    else .ok (p, b :: bs)

/-- The prefix bytes of an instruction, LOCK, segment, 66H, 67H, REX (R81, R83). -/
def Prefixes.bytes (p : Prefixes) : List Byte :=
  (if p.lock then [0xF0#8] else []) ++
  (match p.seg with | some k => [segOverrideByte k] | none => []) ++
  (if p.opsz then [0x66#8] else []) ++
  (if p.adsz then [0x67#8] else []) ++
  (match p.rex with | some x => [x.byte] | none => [])

/-! ## ModRM, SIB and displacement (R87 to R93) -/

/-- ModRM: `mod` bits 7:6, `reg` bits 5:3, `rm` bits 2:0 (R87). A SIB byte has the same layout: `scale`, `index`,
`base` (R91). -/
def fields233 (b : Byte) : BitVec 2 × BitVec 3 × BitVec 3 :=
  (b.extractLsb' 6 2, b.extractLsb' 3 3, b.extractLsb' 0 3)

/-- A ModRM or SIB byte from its three fields (R87, R91). -/
def byte233 (hi : BitVec 2) (mid lo : BitVec 3) : Byte := hi ++ mid ++ lo

/-- The row of the 16-bit addressing table that `rm` names (R89). -/
def base16Of (rm : BitVec 3) : Base16 :=
  if rm = 0#3 then .bxSi
  else if rm = 1#3 then .bxDi
  else if rm = 2#3 then .bpSi
  else if rm = 3#3 then .bpDi
  else if rm = 4#3 then .si
  else if rm = 5#3 then .di
  else if rm = 6#3 then .bp
  else .bx

/-- The `rm` field of a row of the 16-bit addressing table (R89). -/
def Base16.rm : Base16 → BitVec 3
  | .bxSi => 0 | .bxDi => 1 | .bpSi => 2 | .bpDi => 3 | .si => 4 | .di => 5 | .bp => 6 | .bx => 7

/-- The displacement `mod` announces with a 16-bit address size (R89, R92). -/
def readDisp16 (mod : BitVec 2) (bs : List Byte) : Except Reject (Disp 16 × List Byte) :=
  if mod = 0#2 then .ok (.none, bs)
  else if mod = 1#2 then do
    let (d, r) ← readU8 bs
    return (.short d, r)
  else do
    let (d, r) ← readU16 bs
    return (.full d, r)

/-- The displacement `mod` announces with a 32- or 64-bit address size (R90, R92). -/
def readDisp32 (mod : BitVec 2) (bs : List Byte) : Except Reject (Disp 32 × List Byte) :=
  if mod = 0#2 then .ok (.none, bs)
  else if mod = 1#2 then do
    let (d, r) ← readU8 bs
    return (.short d, r)
  else do
    let (d, r) ← readU32 bs
    return (.full d, r)

/-- The memory operand of 16-bit addressing (R89). -/
def readMem16 (mod : BitVec 2) (rm : BitVec 3) (bs : List Byte) : Except Reject (MemRef × List Byte) :=
  if mod = 0#2 ∧ rm = 6#3 then do
    let (d, r) ← readU16 bs
    return (.abs16 d, r)
  else do
    let (d, r) ← readDisp16 mod bs
    return (.based16 (base16Of rm) d, r)

/-- The memory operand of 32- and 64-bit addressing (R90, R91, R93). The tests on `rm` and on the SIB base look at
three bits only. -/
def readMem32 (mod : BitVec 2) (rm : BitVec 3) (bs : List Byte) : Except Reject (MemRef × List Byte) :=
  if rm = 4#3 then do
    let (s, r) ← readU8 bs
    let (scale, index, base) := fields233 s
    if mod = 0#2 ∧ base = 5#3 then do
      let (d, r) ← readU32 r
      return (.sibAbs scale index d, r)
    else do
      let (d, r) ← readDisp32 mod r
      return (.sib scale index base d, r)
  else if mod = 0#2 ∧ rm = 5#3 then do
    let (d, r) ← readU32 bs
    return (.disp32 d, r)
  else do
    let (d, r) ← readDisp32 mod bs
    return (.based rm d, r)

/-- ModRM, SIB and displacement: the `reg` field and the operand "ModRM:r/m" (R88). -/
def readModRM (a : AdSize) (bs : List Byte) : Except Reject (BitVec 3 × RM × List Byte) := do
  let (m, r) ← readU8 bs
  let (mod, reg, rm) := fields233 m
  if mod = 3#2 then return (reg, .reg rm, r)
  else if a = .a16 then do
    let (e, r) ← readMem16 mod rm r
    return (reg, .mem e, r)
  else do
    let (e, r) ← readMem32 mod rm r
    return (reg, .mem e, r)

/-- The `mod` field a displacement needs (R89, R90). -/
def Disp.mod {w : Nat} : Disp w → BitVec 2
  | .none => 0
  | .short _ => 1
  | .full _ => 2

/-- The bytes of a 16-bit-addressing displacement (R92). -/
def dispBytes16 : Disp 16 → List Byte
  | .none => []
  | .short d => [d]
  | .full d => bytes16 d

/-- The bytes of a 32/64-bit-addressing displacement (R92). -/
def dispBytes32 : Disp 32 → List Byte
  | .none => []
  | .short d => [d]
  | .full d => bytes32 d

/-- ModRM, SIB and displacement bytes of an operand "ModRM:r/m" with the given `reg` field (R87 to R92). -/
def RM.bytes (reg : BitVec 3) : RM → List Byte
  | .reg rm => [byte233 3 reg rm]
  | .mem (.based16 b d) => byte233 d.mod reg b.rm :: dispBytes16 d
  | .mem (.abs16 d) => byte233 0 reg 6 :: bytes16 d
  | .mem (.based rm d) => byte233 d.mod reg rm :: dispBytes32 d
  | .mem (.disp32 d) => byte233 0 reg 5 :: bytes32 d
  | .mem (.sib s i b d) => byte233 d.mod reg 4 :: byte233 s i b :: dispBytes32 d
  | .mem (.sibAbs s i d) => byte233 0 reg 4 :: byte233 s i 5 :: bytes32 d

/-- The offset of a `moffs` operand, `adsize/8` bytes (R97). -/
def readMoffs : AdSize → List Byte → Except Reject (Moffs × List Byte)
  | .a16, bs => do
    let (o, r) ← readU16 bs
    return (.off16 o, r)
  | .a32, bs => do
    let (o, r) ← readU32 bs
    return (.off32 o, r)
  | .a64, bs => do
    let (o, r) ← readU64 bs
    return (.off64 o, r)

/-- The bytes of a `moffs` offset (R97). -/
def Moffs.bytes : Moffs → List Byte
  | .off16 o => bytes16 o
  | .off32 o => bytes32 o
  | .off64 o => bytes64 o

/-! ## The opcode map (R101) -/

/-- A form of class MR or RM: the constructor the row selects, applied to ModRM (R86). -/
def readMR (a : AdSize) (f : BitVec 3 → RM → Instr) (bs : List Byte) : Except Reject (Instr × List Byte) := do
  let (reg, rm, r) ← readModRM a bs
  return (f reg rm, r)

/-- A form of class FD or TD (R86). -/
def readFD (a : AdSize) (f : Moffs → Instr) (bs : List Byte) : Except Reject (Instr × List Byte) := do
  let (m, r) ← readMoffs a bs
  return (f m, r)

/-- A form of class MI: ModRM with `reg = 000`, then the immediate (R86, R99, R105). -/
def readMI {n : Nat} (op : Byte) (a : AdSize) (imm : List Byte → Except Reject (BitVec n × List Byte))
    (f : RM → BitVec n → Instr) (bs : List Byte) : Except Reject (Instr × List Byte) := do
  let (reg, rm, r) ← readModRM a bs
  if reg = 0#3 then do
    let (v, r) ← imm r
    return (f rm v, r)
  else .error (.notMovGroup op reg)

/-- A form of class OI: the immediate follows the opcode (R86, R98). -/
def readOI {n : Nat} (imm : List Byte → Except Reject (BitVec n × List Byte)) (f : BitVec n → Instr)
    (bs : List Byte) : Except Reject (Instr × List Byte) := do
  let (v, r) ← imm bs
  return (f v, r)

/-- Selecting the form: the opcode byte, the presence of REX, REX.W and `opsize` select the row (R101). -/
def readForm (c : Ctx) (p : Prefixes) (op : Byte) (bs : List Byte) : Except Reject (Instr × List Byte) :=
  if op = 0x88#8 then
    if p.rexPresent then readMR (adSize c p) (.movRm8R8Rex p) bs else readMR (adSize c p) (.movRm8R8 p) bs
  else if op = 0x89#8 then
    match opSize c p with
    | .o16 => readMR (adSize c p) (.movRm16R16 p) bs
    | .o32 => readMR (adSize c p) (.movRm32R32 p) bs
    | .o64 => readMR (adSize c p) (.movRm64R64 p) bs
  else if op = 0x8A#8 then
    if p.rexPresent then readMR (adSize c p) (.movR8Rm8Rex p) bs else readMR (adSize c p) (.movR8Rm8 p) bs
  else if op = 0x8B#8 then
    match opSize c p with
    | .o16 => readMR (adSize c p) (.movR16Rm16 p) bs
    | .o32 => readMR (adSize c p) (.movR32Rm32 p) bs
    | .o64 => readMR (adSize c p) (.movR64Rm64 p) bs
  else if op = 0x8C#8 then
    match opSize c p with
    | .o64 => readMR (adSize c p) (.movRm64Sreg p) bs
    | _ => readMR (adSize c p) (.movRm16Sreg p) bs
  else if op = 0x8E#8 then
    match opSize c p with
    | .o64 => readMR (adSize c p) (.movSregRm64 p) bs
    | _ => readMR (adSize c p) (.movSregRm16 p) bs
  else if op = 0xA0#8 then
    if p.w then readFD (adSize c p) (.movAlMoffs8RexW p) bs else readFD (adSize c p) (.movAlMoffs8 p) bs
  else if op = 0xA1#8 then
    match opSize c p with
    | .o16 => readFD (adSize c p) (.movAxMoffs16 p) bs
    | .o32 => readFD (adSize c p) (.movEaxMoffs32 p) bs
    | .o64 => readFD (adSize c p) (.movRaxMoffs64 p) bs
  else if op = 0xA2#8 then
    if p.w then readFD (adSize c p) (.movMoffs8AlRexW p) bs else readFD (adSize c p) (.movMoffs8Al p) bs
  else if op = 0xA3#8 then
    match opSize c p with
    | .o16 => readFD (adSize c p) (.movMoffs16Ax p) bs
    | .o32 => readFD (adSize c p) (.movMoffs32Eax p) bs
    | .o64 => readFD (adSize c p) (.movMoffs64Rax p) bs
  else if op.extractLsb' 3 5 = 0b10110#5 then
    if p.rexPresent then readOI readU8 (.movR8Imm8Rex p (op.extractLsb' 0 3)) bs
    else readOI readU8 (.movR8Imm8 p (op.extractLsb' 0 3)) bs
  else if op.extractLsb' 3 5 = 0b10111#5 then
    match opSize c p with
    | .o16 => readOI readU16 (.movR16Imm16 p (op.extractLsb' 0 3)) bs
    | .o32 => readOI readU32 (.movR32Imm32 p (op.extractLsb' 0 3)) bs
    | .o64 => readOI readU64 (.movR64Imm64 p (op.extractLsb' 0 3)) bs
  else if op = 0xC6#8 then
    if p.rexPresent then readMI op (adSize c p) readU8 (.movRm8Imm8Rex p) bs
    else readMI op (adSize c p) readU8 (.movRm8Imm8 p) bs
  else if op = 0xC7#8 then
    match opSize c p with
    | .o16 => readMI op (adSize c p) readU16 (.movRm16Imm16 p) bs
    | .o32 => readMI op (adSize c p) readU32 (.movRm32Imm32 p) bs
    | .o64 => readMI op (adSize c p) readU32 (.movRm64Imm32 p) bs
  else .error (.notMov op)

/-- Decode one instruction at the head of the bytes (R80): prefixes, opcode, operands. Answers the instruction and
the bytes after it. -/
def decode (c : Ctx) (bs : List Byte) : Except Reject (Instr × List Byte) := do
  let (p, r) ← readLegacy Prefixes.empty bs
  let (p, r) ← readRex c.mode p r
  let (op, r) ← readU8 r
  readForm c p op r

/-! ## The encoder -/

/-- The prefixes of an instruction. -/
def Instr.prefixes : Instr → Prefixes
  | .movRm8R8 p _ _ => p
  | .movRm8R8Rex p _ _ => p
  | .movRm16R16 p _ _ => p
  | .movRm32R32 p _ _ => p
  | .movRm64R64 p _ _ => p
  | .movR8Rm8 p _ _ => p
  | .movR8Rm8Rex p _ _ => p
  | .movR16Rm16 p _ _ => p
  | .movR32Rm32 p _ _ => p
  | .movR64Rm64 p _ _ => p
  | .movRm16Sreg p _ _ => p
  | .movRm64Sreg p _ _ => p
  | .movSregRm16 p _ _ => p
  | .movSregRm64 p _ _ => p
  | .movAlMoffs8 p _ => p
  | .movAlMoffs8RexW p _ => p
  | .movAxMoffs16 p _ => p
  | .movEaxMoffs32 p _ => p
  | .movRaxMoffs64 p _ => p
  | .movMoffs8Al p _ => p
  | .movMoffs8AlRexW p _ => p
  | .movMoffs16Ax p _ => p
  | .movMoffs32Eax p _ => p
  | .movMoffs64Rax p _ => p
  | .movR8Imm8 p _ _ => p
  | .movR8Imm8Rex p _ _ => p
  | .movR16Imm16 p _ _ => p
  | .movR32Imm32 p _ _ => p
  | .movR64Imm64 p _ _ => p
  | .movRm8Imm8 p _ _ => p
  | .movRm8Imm8Rex p _ _ => p
  | .movRm16Imm16 p _ _ => p
  | .movRm32Imm32 p _ _ => p
  | .movRm64Imm32 p _ _ => p

/-- The opcode byte and what follows it (R86, R101). -/
def Instr.body : Instr → List Byte
  | .movRm8R8 _ reg rm => 0x88#8 :: rm.bytes reg
  | .movRm8R8Rex _ reg rm => 0x88#8 :: rm.bytes reg
  | .movRm16R16 _ reg rm => 0x89#8 :: rm.bytes reg
  | .movRm32R32 _ reg rm => 0x89#8 :: rm.bytes reg
  | .movRm64R64 _ reg rm => 0x89#8 :: rm.bytes reg
  | .movR8Rm8 _ reg rm => 0x8A#8 :: rm.bytes reg
  | .movR8Rm8Rex _ reg rm => 0x8A#8 :: rm.bytes reg
  | .movR16Rm16 _ reg rm => 0x8B#8 :: rm.bytes reg
  | .movR32Rm32 _ reg rm => 0x8B#8 :: rm.bytes reg
  | .movR64Rm64 _ reg rm => 0x8B#8 :: rm.bytes reg
  | .movRm16Sreg _ reg rm => 0x8C#8 :: rm.bytes reg
  | .movRm64Sreg _ reg rm => 0x8C#8 :: rm.bytes reg
  | .movSregRm16 _ reg rm => 0x8E#8 :: rm.bytes reg
  | .movSregRm64 _ reg rm => 0x8E#8 :: rm.bytes reg
  | .movAlMoffs8 _ m => 0xA0#8 :: m.bytes
  | .movAlMoffs8RexW _ m => 0xA0#8 :: m.bytes
  | .movAxMoffs16 _ m => 0xA1#8 :: m.bytes
  | .movEaxMoffs32 _ m => 0xA1#8 :: m.bytes
  | .movRaxMoffs64 _ m => 0xA1#8 :: m.bytes
  | .movMoffs8Al _ m => 0xA2#8 :: m.bytes
  | .movMoffs8AlRexW _ m => 0xA2#8 :: m.bytes
  | .movMoffs16Ax _ m => 0xA3#8 :: m.bytes
  | .movMoffs32Eax _ m => 0xA3#8 :: m.bytes
  | .movMoffs64Rax _ m => 0xA3#8 :: m.bytes
  | .movR8Imm8 _ r imm => (0b10110#5 ++ r) :: [imm]
  | .movR8Imm8Rex _ r imm => (0b10110#5 ++ r) :: [imm]
  | .movR16Imm16 _ r imm => (0b10111#5 ++ r) :: bytes16 imm
  | .movR32Imm32 _ r imm => (0b10111#5 ++ r) :: bytes32 imm
  | .movR64Imm64 _ r imm => (0b10111#5 ++ r) :: bytes64 imm
  | .movRm8Imm8 _ rm imm => 0xC6#8 :: (rm.bytes 0 ++ [imm])
  | .movRm8Imm8Rex _ rm imm => 0xC6#8 :: (rm.bytes 0 ++ [imm])
  | .movRm16Imm16 _ rm imm => 0xC7#8 :: (rm.bytes 0 ++ bytes16 imm)
  | .movRm32Imm32 _ rm imm => 0xC7#8 :: (rm.bytes 0 ++ bytes32 imm)
  | .movRm64Imm32 _ rm imm => 0xC7#8 :: (rm.bytes 0 ++ bytes32 imm)

/-- The bytes of an instruction (R80). -/
def encode (i : Instr) : List Byte := i.prefixes.bytes ++ i.body

/-- The length of an instruction, prefixes included (R100). -/
def Instr.length (i : Instr) : Nat := (encode i).length

/-! ## The words of the opcode table -/

/-- The longest byte sequence the decoder reads: four legacy prefixes, REX and 11 bytes of `C7 /0 id` (R100). -/
def maxFetch : Nat := 16

/-- The little-endian bytes of `n`. -/
def natBytes : Nat → Nat → List Byte
  | 0, _ => []
  | k + 1, n => BitVec.ofNat 8 n :: natBytes k (n / 256)

/-- The bytes of a table word of `nbits` bits, the bits above `nbits` zero, as many as the longest instruction has. -/
def tableBytes (nbits w : Nat) : List Byte := natBytes maxFetch (w % 2 ^ nbits)

/-- What the decoder reads from a table word in the mode the reset machine is in, `Real` with `csD = 0` (R43). -/
def decodeTableWord (nbits w : Nat) : Option Instr :=
  match decode ⟨.real, false⟩ (tableBytes nbits w) with
  | .ok (i, _) => some i
  | .error _ => none

end Sys2Proof
end

