-- ==== Sys2Proof/Machine/State.lean ====
section
/-! DEFINITION. The machine's state as plain data (file 10_state.md), the reasons a step can stop, and the state after
reset (R43). -/

namespace Sys2Proof.Machine

/-- The hidden attributes of a segment register: the descriptor's type, S, DPL, P, AVL, L, D/B and G fields (R31). -/
structure SegAttr where
  /-- bit 0 A, bit 1 W (data) or R (code), bit 2 E (data) or C (code), bit 3 code (R30). -/
  type : BitVec 4
  s : Bool
  dpl : BitVec 2
  p : Bool
  avl : Bool
  l : Bool
  db : Bool
  g : Bool
deriving DecidableEq, Repr

/-- A segment register: the visible selector (R27, R28) and the hidden part (R31). -/
structure SegReg where
  sel : BitVec 16
  base : Word
  limit : BitVec 32
  attr : SegAttr
  usable : Bool
deriving DecidableEq, Repr

/-- The six segment registers, by name (R27). -/
structure SegFile where
  es : SegReg
  cs : SegReg
  ss : SegReg
  ds : SegReg
  fs : SegReg
  gs : SegReg
deriving DecidableEq, Repr

/-- `GDTR` (R36). -/
structure Gdtr where
  base : Word
  limit : BitVec 16
deriving DecidableEq, Repr

/-- `LDTR` (R36). -/
structure Ldtr where
  sel : BitVec 16
  base : Word
  limit : BitVec 32
  usable : Bool
deriving DecidableEq, Repr

/-- A range of physical addresses, from `base`, `size` bytes long. -/
structure Region where
  base : Nat
  size : Nat
deriving DecidableEq, Repr

/-- Physical memory (R50, R62): (address, byte) pairs in the canonical form `Memory.wf`. -/
abbrev Memory := List Host.Cell

/-- The error code of an exception (R219): none in `Real`, 0, or the selector being loaded, carried whole (D40). -/
inductive ErrorCode where
  | absent
  | zero
  | selector (s : BitVec 16)
deriving DecidableEq, Repr

/-- The six exceptions of MOV (R210). Every one is the terminal outcome of the step (R223, R224, D11), raised by
`raise`: safe, the hardware goes on in a handler the spec does not describe. The state at the fault is the state
before the instruction. -/
inductive Fault where
  /-- `#UD` (R211): a LOCK prefix, a load of CS, a segment register number 6 or 7. Safe. -/
  | ud
  /-- `#NP(selector)` (R216): a DS, ES, FS or GS load of a segment not present. Safe. -/
  | np (selector : BitVec 16)
  /-- `#SS` (R214, R215): a stack operand outside limit or non-canonical, or an SS load of a segment not present. Safe. -/
  | ss (code : ErrorCode)
  /-- `#GP` (R212, R213): the other segment, canonical and descriptor checks. Safe. -/
  | gp (code : ErrorCode)
  /-- `#PF(fault-code)` with the faulting linear address (R217, R221): `Translate` answered a fault. Safe. -/
  | pf (code : BitVec 32) (la : Word)
  /-- `#AC(0)` (R218): an unaligned data access with alignment checking enabled at CPL 3. Safe. -/
  | ac
deriving DecidableEq, Repr

/-- The reasons the model gives no next state and no exception (D28). Each is safe: nothing can be proved about what
the hardware does there. -/
inductive Refusal where
  /-- An instruction without a meaning; no arm of `exec` answers it. Safe. -/
  | notModelled (mnemonic : String)
  /-- The step's bytes are not one of the 34 forms (D28, R83, R105, R106), as the decoder says. Safe. -/
  | undecodable (why : Reject)
  /-- A byte of the instruction cannot be fetched: beyond the limit of CS, at a non-canonical address, on a page that
  `Translate` faults on, or in a device; the fetch is outside the spec (R25, D22). Safe. -/
  | fetchUnavailable
  /-- A byte of the instruction lies outside the program, whose bytes are fixed at launch: the spec gives no rule for what
  a fetch of any other byte sees (R70, R250, D16). Safe. -/
  | outsideProgram
  /-- REX.R = 1 on opcode 8C or 8E (R144, D13). Safe. -/
  | rexROnSreg
  /-- A data or descriptor access reaches a device address (R65, D34). Safe. -/
  | deviceAccess
  /-- A store into the bytes of the program (R70, D16). Safe. -/
  | programStore
deriving DecidableEq, Repr

/-- The machine. -/
structure State where
  /-- `x[0]` to `x[15]` (R20). -/
  gpr : Vector Word 16
  /-- The instruction pointer, an offset in CS (R25). -/
  rip : Word
  /-- EFLAGS / RFLAGS (R26, R38). -/
  rflags : Word
  /-- The six segment registers (R27, R31). -/
  seg : SegFile
  /-- CR0 (R33, R37, R38). -/
  cr0 : Word
  /-- CR2, behind the page-fault hook (R38, R217). -/
  cr2 : Word
  /-- CR3, behind the page-fault hook (R38). -/
  cr3 : Word
  /-- IA32_EFER (R33, R38). -/
  efer : Word
  /-- `CPL` (R35). -/
  cpl : BitVec 2
  /-- `GDTR` (R36). -/
  gdtr : Gdtr
  /-- `LDTR` (R36). -/
  ldtr : Ldtr
  /-- `ss_inhibit` (R39). -/
  ssInhibit : Bool
  /-- Physical memory (R41, R50). -/
  mem : Memory
  /-- The physical addresses of the program's bytes, fixed at launch: only they are executed and no store changes them
  (R70, R250, D16). -/
  program : List Region
  /-- The device addresses, a parameter of the platform (R65, D34). -/
  devices : List Region
  /-- The implementation parameters (R5). -/
  impl : Impl
  /-- MODEL'S OWN: how many free values (`draw`, R8) have been used. -/
  draws : Nat
deriving DecidableEq, Repr

/-- The attributes of a present segment after reset: accessed, writable data or readable code (R43). PRESUMED: DPL, AVL, L,
D/B and G 0, type bit 2 0 (a data segment expands up, CS is nonconforming), CS a code segment (log 3). -/
def SegAttr.reset (code : Bool) : SegAttr where
  type := if code then 0b1011 else 0b0011
  s := true
  dpl := 0
  p := true
  avl := false
  l := false
  db := false
  g := false

/-- A data segment register after reset (R43). -/
def SegReg.reset : SegReg where
  sel := 0
  base := 0
  limit := 0xFFFF
  attr := SegAttr.reset false
  usable := true

/-- The machine after reset: the table of R43, and the values of the assumption log where R43 gives none. -/
def State.reset : State where
  gpr := Vector.replicate 16 0
  rip := 0xFFF0
  rflags := 0x2
  seg := {
    es := SegReg.reset
    cs := { sel := 0xF000, base := 0xFFFF0000, limit := 0xFFFF, attr := SegAttr.reset true, usable := true }
    ss := SegReg.reset
    ds := SegReg.reset
    fs := SegReg.reset
    gs := SegReg.reset }
  cr0 := 0x60000010
  cr2 := 0
  cr3 := 0
  efer := 0
  cpl := 0
  gdtr := { base := 0, limit := 0xFFFF }
  ldtr := { sel := 0, base := 0, limit := 0xFFFF, usable := true }
  ssInhibit := false
  mem := []
  program := []
  devices := []
  impl := Config.impl
  draws := 0

end Sys2Proof.Machine
end

