-- ==== Sys2Proof/Machine/Flags.lean ====
section
/-! DEFINITION. The flags register: the two bits MOV reads indirectly and the flags after a MOV (R26). -/

namespace Sys2Proof.Machine

/-- EFLAGS.VM, the virtual-8086 flag (R26, R33). Its place, bit 17, is PRESUMED (the architecture's). -/
def State.flagVM (s : State) : Bool := s.rflags.getLsbD 17

/-- EFLAGS.AC, the alignment-check flag (R26, R37). Its place, bit 18, is PRESUMED (the architecture's). -/
def State.flagAC (s : State) : Bool := s.rflags.getLsbD 18

/-- The flags register after a MOV: "Flags Affected: None." (R26). -/
def flagsAfter (s : State) : Word := s.rflags

end Sys2Proof.Machine
end

