-- ==== Sys2Proof/Machine/Ops.lean ====
section
/-! DEFINITION. The named operations over registers and memory (files 10_state.md and 20_memory.md), raising an
exception (R223) and completing an instruction (R25). -/

namespace Sys2Proof.Machine

/-! ## Results -/

/-- What an operation answers: a value, an exception or a refusal. -/
abbrev Res (α : Type) := Host.Outcome α Fault Refusal

/-- Go on with the value of an operation, or stop where it stopped. -/
def andThen {α β : Type} (r : Res α) (f : α → Res β) : Res β :=
  match r with
  | .next a => f a
  | .fault x => .fault x
  | .refused x => .refused x

/-! ## Raising an exception (R210, R219, R221 to R225) -/

/-- `raise X(info)` (R223): the MOV ends, nothing is written, and the fault is the step's terminal outcome; the spec
describes no entry (R224, D11) and so no return (R225). -/
def raise {α : Type} (f : Fault) : Res α := .fault f

/-- Stop with a fault if there is one, else go on. -/
def guardFault {α : Type} (f : Option Fault) (k : Res α) : Res α :=
  match f with
  | some x => raise x
  | none => k

/-- Which exception is reported when the spec leaves several unordered (R222: the model admits either). -/
def chooseFault (s : State) : List Fault → Option Fault
  | [] => none
  | [f] => some f
  | f :: fs => some ((f :: fs).getD (Config.pick s.draws % (fs.length + 1)) f)

/-- The vector number of an exception (R210). -/
def Fault.vector : Fault → Nat
  | .ud => 6
  | .np _ => 11
  | .ss _ => 12
  | .gp _ => 13
  | .pf _ _ => 14
  | .ac => 17

/-- The code the processor would push for an error code: a selector with its two low bits cleared (R219); its width of 32
bits is PRESUMED (log 27). -/
def ErrorCode.pushed : ErrorCode → Option (BitVec 32)
  | .absent => none
  | .zero => some 0
  | .selector s => some ((s &&& 0xFFFC).setWidth 32)

/-- The error code of an exception, as pushed (R210, R219). -/
def Fault.pushedCode : Fault → Option (BitVec 32)
  | .ud => none
  | .np s => (ErrorCode.selector s).pushed
  | .ss c => c.pushed
  | .gp c => c.pushed
  | .pf c _ => some c
  | .ac => some 0

/-! ## Mode, sizes, privilege (R33 to R37) -/

/-- CR0.PE (R33). Bit 0, PRESUMED (the architecture's). -/
def State.pe (s : State) : Bool := s.cr0.getLsbD 0

/-- CR0.AM (R37). Bit 18, PRESUMED (the architecture's). -/
def State.am (s : State) : Bool := s.cr0.getLsbD 18

/-- Paging is on (R62). CR0 bit 31, PRESUMED (the architecture's PG). -/
def State.pagingOn (s : State) : Bool := s.cr0.getLsbD 31

/-- IA32_EFER.LMA (R33). Bit 10, PRESUMED (the architecture's); never set on a processor without `HAS_LONG_MODE`. -/
def State.lma (s : State) : Bool := s.impl.hasLongMode && s.efer.getLsbD 10

/-- `mode` (R33). -/
def State.mode (s : State) : Mode :=
  if !s.pe then .real
  else if s.flagVM then .v86
  else if s.lma then (if s.seg.cs.attr.l then .long64 else .compat)
  else .prot

/-- `csD` (R34): the D/B bit of the current code segment, 0 in `V86`. -/
def State.csD (s : State) : Bool := s.mode != .v86 && s.seg.cs.attr.db

/-- What decoding reads of the machine (R34). -/
def State.ctx (s : State) : Ctx := ⟨s.mode, s.csD⟩

/-- `ac_on` (R37, D9): CR0.AM = 1 and EFLAGS.AC = 1. -/
def State.acOn (s : State) : Bool := s.am && s.flagAC

/-- The error code of a code-0 exception: none in `Real` (R57, R219). -/
def State.zeroCode (s : State) : ErrorCode := if s.mode = .real then .absent else .zero

/-! ## General registers (R20 to R24) -/

/-- `x[i]` (R8, R20). -/
def State.getX (s : State) (i : BitVec 4) : Word := s.gpr[i.toNat]'(i.isLt)

/-- `x[i] <- v` (R8, R20). -/
def State.setX (s : State) (i : BitVec 4) (v : Word) : State := { s with gpr := s.gpr.set i.toNat v i.isLt }

/-- The storage of an 8-bit register number (R22): bits 7:0 or bits 15:8 of a register. -/
inductive ByteLoc where
  | low (i : BitVec 4)
  | high (i : BitVec 4)
deriving DecidableEq, Repr

/-- `ByteLoc(n, rex)` (R22): without REX, 4 to 7 are AH, CH, DH, BH; with any REX, every number is a low byte. -/
def byteLoc (n : BitVec 4) (rex : Bool) : ByteLoc :=
  if rex || n < 4#4 then .low n else .high (n - 4#4)

/-- `RegRead(n, w, rex)` (R23), zero-extended. -/
def regRead (s : State) (n : BitVec 4) (w : Width) (rex : Bool) : Word :=
  match w with
  | .w8 =>
    match byteLoc n rex with
    | .low i => ((s.getX i).extractLsb' 0 8).setWidth 64
    | .high i => ((s.getX i).extractLsb' 8 8).setWidth 64
  | .w16 => ((s.getX n).extractLsb' 0 16).setWidth 64
  | .w32 => ((s.getX n).extractLsb' 0 32).setWidth 64
  | .w64 => s.getX n

/-- `draw(N)` (R8): the next free value, and the state that has used it. -/
def State.draw (s : State) : Word × State := (Config.draw s.draws, { s with draws := s.draws + 1 })

/-- `RegWrite(n, w, rex, v)` (R23): the low `w` bits of `v` are written; a 32-bit write clears bits 63:32 in `Long64`
and leaves them free in the other modes (D21). -/
def regWrite (s : State) (n : BitVec 4) (w : Width) (rex : Bool) (v : Word) : State :=
  match w with
  | .w8 =>
    match byteLoc n rex with
    | .low i => s.setX i ((s.getX i).extractLsb' 8 56 ++ v.extractLsb' 0 8)
    | .high i => s.setX i ((s.getX i).extractLsb' 16 48 ++ v.extractLsb' 0 8 ++ (s.getX i).extractLsb' 0 8)
  | .w16 => s.setX n ((s.getX n).extractLsb' 16 48 ++ v.extractLsb' 0 16)
  | .w32 =>
    if s.mode = .long64 then s.setX n (0#32 ++ v.extractLsb' 0 32)
    else s.draw.2.setX n (s.draw.1.extractLsb' 0 32 ++ v.extractLsb' 0 32)
  | .w64 => s.setX n v

/-! ## Segment registers (R27, R31) -/

/-- `sreg[k]` (R8, R27). -/
def State.sreg (s : State) : SReg → SegReg
  | .es => s.seg.es
  | .cs => s.seg.cs
  | .ss => s.seg.ss
  | .ds => s.seg.ds
  | .fs => s.seg.fs
  | .gs => s.seg.gs

/-- `sreg[k] <- r`, the visible and the hidden part together (R27, R31). -/
def State.setSreg (s : State) (k : SReg) (r : SegReg) : State :=
  match k with
  | .es => { s with seg := { s.seg with es := r } }
  | .cs => { s with seg := { s.seg with cs := r } }
  | .ss => { s with seg := { s.seg with ss := r } }
  | .ds => { s with seg := { s.seg with ds := r } }
  | .fs => { s with seg := { s.seg with fs := r } }
  | .gs => { s with seg := { s.seg with gs := r } }

/-- The segment register a ModRM.reg field names: 0 ES, 1 CS, 2 SS, 3 DS, 4 FS, 5 GS; 6 and 7 name none (R27, R144). -/
def sregOfField (reg : BitVec 3) : Option SReg :=
  if reg = 0#3 then some .es
  else if reg = 1#3 then some .cs
  else if reg = 2#3 then some .ss
  else if reg = 3#3 then some .ds
  else if reg = 4#3 then some .fs
  else if reg = 5#3 then some .gs
  else none

/-! ## Physical memory (R50) -/

/-- What a byte that nothing has written reads as. DESIGN CHOICE: R43 leaves memory unspecified. -/
def Memory.unlisted (_a : Nat) : Byte := 0

/-- The byte at a physical address (R50). -/
def Memory.read : Memory → Nat → Byte
  | [], a => Memory.unlisted a
  | c :: m, a => if a = c.1 then c.2 else Memory.read m a

/-- Store a byte at a physical address, keeping the canonical form (R50). -/
def Memory.write : Memory → Nat → Byte → Memory
  | [], a, b => if b = Memory.unlisted a then [] else [(a, b)]
  | c :: m, a, b =>
    if a < c.1 then (if b = Memory.unlisted a then c :: m else (a, b) :: c :: m)
    else if a = c.1 then (if b = Memory.unlisted a then m else (a, b) :: m)
    else c :: Memory.write m a b

/-- The canonical form from address `lo` on: addresses strictly rising, no entry equal to what is read unlisted. -/
def Memory.wfFrom : Nat → Memory → Bool
  | _, [] => true
  | lo, c :: m => decide (lo ≤ c.1) && c.2 != Memory.unlisted c.1 && Memory.wfFrom (c.1 + 1) m

/-- The canonical form of a memory. -/
def Memory.wf (m : Memory) : Bool := Memory.wfFrom 0 m

/-- The value of the bytes at a list of physical addresses, the least significant first (R50, R51). -/
def Memory.readAll (m : Memory) (as : List Nat) : Word := leValue (as.map m.read)

/-- Store the low bytes of a value at a list of physical addresses, the least significant first (R50, R51). -/
def Memory.writeAll : Memory → List Nat → Word → Memory
  | m, [], _ => m
  | m, a :: as, v => Memory.writeAll (m.write a (v.setWidth 8)) as (v >>> 8)

/-- A physical address lies in a region. -/
def Region.has (r : Region) (a : Nat) : Bool := decide (r.base ≤ a) && decide (a < r.base + r.size)

/-- A physical address lies in one of the regions. -/
def inRegions (rs : List Region) (a : Nat) : Bool := rs.any (fun r => r.has a)

/-! ## Linear addresses (R51, R54, R56, R62) -/

/-- A linear address reduced to 32 bits unless `wide` (R51). -/
def wrapLinear (wide : Bool) (la : Word) : Word := if wide then la else (la.extractLsb' 0 32).setWidth 64

/-- The linear addresses of the `n` bytes of an access, lowest first (R51). -/
def byteAddrs (wide : Bool) (la : Word) (n : Nat) : List Word :=
  (List.range n).map (fun i => wrapLinear wide (la + BitVec.ofNat 64 i))

/-- Linear addresses are 64 bits wide in `Long64` and 32 bits wide in the other modes (R51). -/
def State.wideLinear (s : State) : Bool := s.mode == .long64

/-- Canonical form of an address (R56): bits 63 down to `VA_BITS - 1` all equal. -/
def canonical (v : VaBits) (a : Word) : Bool :=
  match v with
  | .va48 => (a.extractLsb' 0 48).signExtend 64 == a
  | .va57 => (a.extractLsb' 0 57).signExtend 64 == a

/-- Every byte of an access is at a canonical address (R56). -/
def allCanonical (s : State) (as : List Word) : Bool := as.all (canonical s.impl.vaBits)

/-- `Translate` (R62): the identity in `Real` and with paging off. -/
def State.translate (s : State) (kind : AccessKind) (user : Bool) (la : Word) : Translation :=
  if s.mode = .real ∨ s.pagingOn = false then .phys la
  else Config.translate s.cr3 s.mem la kind user

/-- The page fault of one byte of an access, if `Translate` gives one (R62, R217). -/
def pageFault? (s : State) (kind : AccessKind) (user : Bool) (la : Word) : Option Fault :=
  match s.translate kind user la with
  | .pageFault code => some (.pf code la)
  | .phys _ => none

/-- The physical address of one byte of an access, if `Translate` gives one (R62). -/
def physical? (s : State) (kind : AccessKind) (user : Bool) (la : Word) : Option Nat :=
  match s.translate kind user la with
  | .phys a => some a.toNat
  | .pageFault _ => none

/-- The physical addresses of the bytes of an access (R51, R64), or one of its page faults or of the other exceptions
`others` that R222 leaves unordered with them; an access to a device is refused (R65). -/
def resolve (s : State) (others : List Fault) (kind : AccessKind) (user : Bool) (las : List Word) : Res (List Nat) :=
  guardFault (chooseFault s (others ++ las.filterMap (pageFault? s kind user)))
    (if (las.filterMap (physical? s kind user)).any (inRegions s.devices) then .refused .deviceAccess
     else .next (las.filterMap (physical? s kind user)))

/-- Store a value at physical addresses already resolved; a store into the program is refused (R70). -/
def storeAt (s : State) (as : List Nat) (v : Word) : Res State :=
  if as.any (inRegions s.program) then .refused .programStore
  else .next { s with mem := s.mem.writeAll as v }

/-! ## Accesses through a segment register (R52 to R59) -/

/-- Data segment of R30: type bit 3 is 0. -/
def SegAttr.isCode (a : SegAttr) : Bool := a.type.getLsbD 3

/-- A writable segment: a data segment with W = 1 (R53 (b)). -/
def SegAttr.writable (a : SegAttr) : Bool := !a.isCode && a.type.getLsbD 1

/-- A code segment that is not readable (R53 (c)). -/
def SegAttr.executeOnly (a : SegAttr) : Bool := a.isCode && !a.type.getLsbD 1

/-- An expand-down data segment (R53). -/
def SegAttr.expandDown (a : SegAttr) : Bool := !a.isCode && a.type.getLsbD 2

/-- The limit test of R53 (d), on unbounded integers. -/
def SegReg.within (r : SegReg) (off : Word) (n : Nat) : Bool :=
  if r.attr.expandDown then
    decide (r.limit.toNat < off.toNat) &&
      decide (off.toNat + n ≤ (if r.attr.db then 0xFFFFFFFF else 0xFFFF) + 1)
  else decide (off.toNat + n ≤ r.limit.toNat + 1)

/-- `#SS` when the segment of the access is SS, else `#GP`, with error code 0 or none (R53 (d), R56, R57, R214). -/
def State.addressFault (s : State) (k : SReg) : Fault :=
  if k = .ss then .ss s.zeroCode else .gp s.zeroCode

/-- The segment checks of an access of `n` bytes at `off` through `sreg[k]` (R53, R55, R57). -/
def segFault (s : State) (k : SReg) (off : Word) (n : Nat) (kind : AccessKind) : Option Fault :=
  match s.mode with
  | .long64 => none
  | .real | .v86 => if (s.sreg k).within off n then none else some (s.addressFault k)
  | .prot | .compat =>
    if k ≠ .ss ∧ k ≠ .cs ∧ (s.sreg k).usable = false then some (.gp .zero)
    else if kind = .write ∧ (s.sreg k).attr.writable = false then some (.gp .zero)
    else if kind = .read ∧ (s.sreg k).attr.executeOnly = true then some (.gp .zero)
    else if (s.sreg k).within off n then none
    else some (s.addressFault k)

/-- The linear address of `seg:off` (R54). -/
def linearAddr (s : State) (k : SReg) (off : Word) : Word :=
  match s.mode with
  | .long64 => if k = .fs ∨ k = .gs then (s.sreg k).base + off else off
  | _ => wrapLinear false ((s.sreg k).base + off)

/-- The canonical check of a data access, in `Long64` only (R56). -/
def canonicalFault (s : State) (k : SReg) (las : List Word) : Option Fault :=
  if s.mode = .long64 ∧ allCanonical s las = false then some (s.addressFault k) else none

/-- The alignment check (R59): an unaligned access with `ac_on` at CPL 3, in every mode but `Real`. -/
def alignFaults (s : State) (la : Word) (n : Nat) : List Fault :=
  if s.mode ≠ .real ∧ s.acOn = true ∧ s.cpl = 3#2 ∧ la.toNat % n ≠ 0 then [.ac] else []

/-- Steps 1 to 5 of R52 up to the access itself: the physical addresses of the `n` bytes at `off` through `sreg[k]`, or
the exception. -/
def dataAddrs (s : State) (k : SReg) (off : Word) (n : Nat) (kind : AccessKind) : Res (List Nat) :=
  let la := linearAddr s k off
  let las := byteAddrs s.wideLinear la n
  guardFault (segFault s k off n kind)
    (guardFault (canonicalFault s k las)
      (resolve s (alignFaults s la n) kind (s.cpl == 3#2) las))

/-- `SegRead(k, off, n)` (R52), zero-extended. -/
def segRead (s : State) (k : SReg) (off : Word) (n : Nat) : Res Word :=
  andThen (dataAddrs s k off n .read) fun as => .next (s.mem.readAll as)

/-- `SegWrite(k, off, n, v)` (R52): the low `n` bytes of `v`. -/
def segWrite (s : State) (k : SReg) (off : Word) (n : Nat) (v : Word) : Res State :=
  andThen (dataAddrs s k off n .write) fun as => storeAt s as v

/-! ## Completing an instruction (R25, R39, R44) -/

/-- `pc + len`, modulo `2^64` in `Long64` and modulo `2^32` in the other modes (R25). -/
def nextPc (s : State) (len : Nat) : Word :=
  match s.mode with
  | .long64 => s.rip + BitVec.ofNat 64 len
  | _ => wrapLinear false (s.rip + BitVec.ofNat 64 len)

/-- The state after a MOV that completes: `pc` advanced (R25), flags unchanged (R26), and `ss_inhibit` as given, false
for every MOV but a load of SS (R39). -/
def complete (s : State) (len : Nat) (inhibit : Bool) : State :=
  { s with rip := nextPc s len, rflags := flagsAfter s, ssInhibit := inhibit }

/-- The exceptions of the encoding itself: a LOCK prefix (R104) and more than 15 bytes (R100), unordered with each
other (R100: left open by `FAULT_ORDER`). -/
def encodingFault (s : State) (i : Instr) : Option Fault :=
  chooseFault s
    ((if i.prefixes.lock then [.ud] else []) ++
     (if Config.maxInsnLen < i.length then [.gp s.zeroCode] else []))

end Sys2Proof.Machine
end

