-- ==== Sys2Proof/Machine/Operands.lean ====
section
/-! DEFINITION. The operand forms: register numbers, effective addresses and their segments (R88 to R95), `moffs`
offsets (R97, R170), reading and writing "ModRM:r/m" (R120). -/

namespace Sys2Proof.Machine

/-! ## Register numbers (R88, R98) -/

/-- `REX.R ++ ModRM.reg` (R88). -/
def regNum (p : Prefixes) (reg : BitVec 3) : BitVec 4 := BitVec.ofBool p.r ++ reg

/-- `REX.B ++ ModRM.rm`, and the same for a SIB base and a register in the opcode (R88, R91, R98). -/
def rmNum (p : Prefixes) (rm : BitVec 3) : BitVec 4 := BitVec.ofBool p.b ++ rm

/-- `REX.X ++ SIB.index` (R91). -/
def indexNum (p : Prefixes) (index : BitVec 3) : BitVec 4 := BitVec.ofBool p.x ++ index

/-! ## Effective addresses (R89 to R94) -/

/-- The width in which address registers are read (R85, before R89). -/
def adWidth : AdSize → Width
  | .a16 => .w16
  | .a32 => .w32
  | .a64 => .w64

/-- Truncate to the address size and zero-extend (R94). -/
def truncAd : AdSize → Word → Word
  | .a16, a => (a.extractLsb' 0 16).setWidth 64
  | .a32, a => (a.extractLsb' 0 32).setWidth 64
  | .a64, a => a

/-- A displacement, sign-extended (R92). -/
def dispValue {w : Nat} : Disp w → Word
  | .none => 0
  | .short d => d.signExtend 64
  | .full d => d.signExtend 64

/-- The sum of the registers of a row of the 16-bit addressing table (R89): BX, BP, SI, DI are registers 3, 5, 6, 7. -/
def base16Value (s : State) : Base16 → Word
  | .bxSi => regRead s 3 .w16 true + regRead s 6 .w16 true
  | .bxDi => regRead s 3 .w16 true + regRead s 7 .w16 true
  | .bpSi => regRead s 5 .w16 true + regRead s 6 .w16 true
  | .bpDi => regRead s 5 .w16 true + regRead s 7 .w16 true
  | .si => regRead s 6 .w16 true
  | .di => regRead s 7 .w16 true
  | .bp => regRead s 5 .w16 true
  | .bx => regRead s 3 .w16 true

/-- `A(i)` (before R89): a register at the address size, zero-extended. -/
def addrReg (s : State) (a : AdSize) (i : BitVec 4) : Word := regRead s i (adWidth a) true

/-- The index term of a SIB address: none when `REX.X ++ index` is 4 (R91). -/
def indexTerm (s : State) (p : Prefixes) (a : AdSize) (scale : BitVec 2) (index : BitVec 3) : Word :=
  if indexNum p index = 4#4 then 0 else addrReg s a (indexNum p index) <<< scale.toNat

/-- `EA` (R89 to R94) of a memory operand of an instruction of `len` bytes: the register values are those the
instruction found at its start (R120). -/
def effAddr (s : State) (p : Prefixes) (len : Nat) (m : MemRef) : Word :=
  let a := adSize s.ctx p
  match m with
  | .based16 b d => truncAd .a16 (base16Value s b + dispValue d)
  | .abs16 d => truncAd .a16 (d.setWidth 64)
  | .based rm d => truncAd a (addrReg s a (rmNum p rm) + dispValue d)
  | .disp32 d =>
    match s.mode with
    | .long64 => truncAd a (s.rip + BitVec.ofNat 64 len + d.signExtend 64)
    | _ => truncAd a (d.signExtend 64)
  | .sib sc i b d => truncAd a (addrReg s a (rmNum p b) + indexTerm s p a sc i + dispValue d)
  | .sibAbs sc i d => truncAd a (indexTerm s p a sc i + d.signExtend 64)

/-! ## Segments (R89 to R91, R95) -/

/-- The default segment of a memory operand (R89 to R91, R93). -/
def defaultSeg (p : Prefixes) : MemRef → SReg
  | .based16 .bpSi _ => .ss
  | .based16 .bpDi _ => .ss
  | .based16 .bp _ => .ss
  | .based16 _ _ => .ds
  | .abs16 _ => .ds
  | .based rm _ => if rmNum p rm = 5#4 then .ss else .ds
  | .disp32 _ => .ds
  | .sib _ _ b _ => if rmNum p b = 4#4 ∨ rmNum p b = 5#4 then .ss else .ds
  | .sibAbs _ _ _ => .ds

/-- A segment override replaces the default; in `Long64` only FS and GS do (R95). -/
def segOf (m : Mode) (p : Prefixes) (dflt : SReg) : SReg :=
  match p.seg with
  | none => dflt
  | some k =>
    match m with
    | .long64 => if k = .fs ∨ k = .gs then k else dflt
    | _ => k

/-- The segment register of a memory operand (R95). -/
def memSeg (s : State) (p : Prefixes) (m : MemRef) : SReg := segOf s.mode p (defaultSeg p m)

/-- The segment register of a `moffs` operand: DS unless overridden (R95, R97). -/
def moffsSeg (s : State) (p : Prefixes) : SReg := segOf s.mode p .ds

/-- The offset of a `moffs` operand, zero-extended (R97, R170). -/
def moffsValue : Moffs → Word
  | .off16 o => o.setWidth 64
  | .off32 o => o.setWidth 64
  | .off64 o => o

/-! ## Reading and writing operands (R120) -/

/-- `ReadRM(w)` (R120). -/
def readRM (s : State) (p : Prefixes) (len : Nat) (w : Width) : RM → Res Word
  | .reg rm => .next (regRead s (rmNum p rm) w p.rexPresent)
  | .mem m => segRead s (memSeg s p m) (effAddr s p len m) w.bytes

/-- `WriteRM(w, v)` (R120). -/
def writeRM (s : State) (p : Prefixes) (len : Nat) (w : Width) (v : Word) : RM → Res State
  | .reg rm => .next (regWrite s (rmNum p rm) w p.rexPresent v)
  | .mem m => segWrite s (memSeg s p m) (effAddr s p len m) w.bytes v

/-! ## The common course of a move -/

/-- After the exceptions of the encoding (R100, R104; first by R222), the move itself, then completion (R25). -/
def runMove (i : Instr) (s : State) (move : Res State) : Res State :=
  guardFault (encodingFault s i) (andThen move fun t => .next (complete t i.length false))

/-- Move a value to "ModRM:r/m" at width `w`. -/
def moveToRM (i : Instr) (w : Width) (rm : RM) (v : Word) (s : State) : Res State :=
  runMove i s (writeRM s i.prefixes i.length w v rm)

/-- Move "ModRM:r/m" to the register "ModRM:reg" at width `w`. -/
def moveFromRM (i : Instr) (w : Width) (reg : BitVec 3) (rm : RM) (s : State) : Res State :=
  runMove i s (andThen (readRM s i.prefixes i.length w rm) fun v =>
    .next (regWrite s (regNum i.prefixes reg) w i.prefixes.rexPresent v))

/-- Move a `moffs` operand to the accumulator at width `w`: register 0, no REX bit changes it (R170, R181). -/
def moveFromMoffs (i : Instr) (w : Width) (m : Moffs) (s : State) : Res State :=
  runMove i s (andThen (segRead s (moffsSeg s i.prefixes) (moffsValue m) w.bytes) fun v => .next (regWrite s 0 w true v))

/-- Move the accumulator to a `moffs` operand at width `w` (R170, R181). -/
def moveToMoffs (i : Instr) (w : Width) (m : Moffs) (s : State) : Res State :=
  runMove i s (segWrite s (moffsSeg s i.prefixes) (moffsValue m) w.bytes (regRead s 0 w true))

/-- Move an immediate to the register in the opcode at width `w` (R98). -/
def moveToOpReg (i : Instr) (w : Width) (r : BitVec 3) (v : Word) (s : State) : Res State :=
  runMove i s (.next (regWrite s (rmNum i.prefixes r) w i.prefixes.rexPresent v))

end Sys2Proof.Machine
end

