-- ==== Sys2Proof/Machine/MovImm.lean ====
section
/-! DEFINITION. Moves of an immediate, opcodes B0 to BF, C6 /0 and C7 /0 (R190 to R201). -/

namespace Sys2Proof.Machine

/-- `MOV r8, imm8` (row 25, "B0+ rb ib", R191). -/
def execMovR8Imm8 (p : Prefixes) (r : BitVec 3) (imm : BitVec 8) (s : State) : Res State :=
  moveToOpReg (.movR8Imm8 p r imm) .w8 r (imm.setWidth 64) s

/-- `MOV r8, imm8 (REX)` (row 26, "REX + B0+ rb ib", R192). -/
def execMovR8Imm8Rex (p : Prefixes) (r : BitVec 3) (imm : BitVec 8) (s : State) : Res State :=
  moveToOpReg (.movR8Imm8Rex p r imm) .w8 r (imm.setWidth 64) s

/-- `MOV r16, imm16` (row 27, "B8+ rw iw", R193). -/
def execMovR16Imm16 (p : Prefixes) (r : BitVec 3) (imm : BitVec 16) (s : State) : Res State :=
  moveToOpReg (.movR16Imm16 p r imm) .w16 r (imm.setWidth 64) s

/-- `MOV r32, imm32` (row 28, "B8+ rd id", R194). -/
def execMovR32Imm32 (p : Prefixes) (r : BitVec 3) (imm : BitVec 32) (s : State) : Res State :=
  moveToOpReg (.movR32Imm32 p r imm) .w32 r (imm.setWidth 64) s

/-- `MOV r64, imm64` (row 29, "REX.W + B8+ rd io", R195). -/
def execMovR64Imm64 (p : Prefixes) (r : BitVec 3) (imm : BitVec 64) (s : State) : Res State :=
  moveToOpReg (.movR64Imm64 p r imm) .w64 r imm s

/-- `MOV r/m8, imm8` (row 30, "C6 /0 ib", R196). -/
def execMovRm8Imm8 (p : Prefixes) (rm : RM) (imm : BitVec 8) (s : State) : Res State :=
  moveToRM (.movRm8Imm8 p rm imm) .w8 rm (imm.setWidth 64) s

/-- `MOV r/m8, imm8 (REX)` (row 31, "REX + C6 /0 ib", R197). -/
def execMovRm8Imm8Rex (p : Prefixes) (rm : RM) (imm : BitVec 8) (s : State) : Res State :=
  moveToRM (.movRm8Imm8Rex p rm imm) .w8 rm (imm.setWidth 64) s

/-- `MOV r/m16, imm16` (row 32, "C7 /0 iw", R198). -/
def execMovRm16Imm16 (p : Prefixes) (rm : RM) (imm : BitVec 16) (s : State) : Res State :=
  moveToRM (.movRm16Imm16 p rm imm) .w16 rm (imm.setWidth 64) s

/-- `MOV r/m32, imm32` (row 33, "C7 /0 id", R199). -/
def execMovRm32Imm32 (p : Prefixes) (rm : RM) (imm : BitVec 32) (s : State) : Res State :=
  moveToRM (.movRm32Imm32 p rm imm) .w32 rm (imm.setWidth 64) s

/-- `MOV r/m64, imm32` (row 34, "REX.W + C7 /0 io", R200). -/
def execMovRm64Imm32 (p : Prefixes) (rm : RM) (imm : BitVec 32) (s : State) : Res State :=
  moveToRM (.movRm64Imm32 p rm imm) .w64 rm (imm.signExtend 64) s

end Sys2Proof.Machine
end

