-- ==== Sys2Proof/Machine/MovMoffs.lean ====
section
/-! DEFINITION. Moves between the accumulator and a memory offset, opcodes A0 to A3 (R170 to R181). -/

namespace Sys2Proof.Machine

/-- `MOV AL, moffs8` (row 15, "A0", R171). -/
def execMovAlMoffs8 (p : Prefixes) (m : Moffs) (s : State) : Res State :=
  moveFromMoffs (.movAlMoffs8 p m) .w8 m s

/-- `MOV AL, moffs8 (REX.W)` (row 16, "REX.W + A0", R172). -/
def execMovAlMoffs8RexW (p : Prefixes) (m : Moffs) (s : State) : Res State :=
  moveFromMoffs (.movAlMoffs8RexW p m) .w8 m s

/-- `MOV AX, moffs16` (row 17, "A1", R173). -/
def execMovAxMoffs16 (p : Prefixes) (m : Moffs) (s : State) : Res State :=
  moveFromMoffs (.movAxMoffs16 p m) .w16 m s

/-- `MOV EAX, moffs32` (row 18, "A1", R174). -/
def execMovEaxMoffs32 (p : Prefixes) (m : Moffs) (s : State) : Res State :=
  moveFromMoffs (.movEaxMoffs32 p m) .w32 m s

/-- `MOV RAX, moffs64` (row 19, "REX.W + A1", R175). -/
def execMovRaxMoffs64 (p : Prefixes) (m : Moffs) (s : State) : Res State :=
  moveFromMoffs (.movRaxMoffs64 p m) .w64 m s

/-- `MOV moffs8, AL` (row 20, "A2", R176). -/
def execMovMoffs8Al (p : Prefixes) (m : Moffs) (s : State) : Res State :=
  moveToMoffs (.movMoffs8Al p m) .w8 m s

/-- `MOV moffs8, AL (REX.W)` (row 21, "REX.W + A2", R177). -/
def execMovMoffs8AlRexW (p : Prefixes) (m : Moffs) (s : State) : Res State :=
  moveToMoffs (.movMoffs8AlRexW p m) .w8 m s

/-- `MOV moffs16, AX` (row 22, "A3", R178). -/
def execMovMoffs16Ax (p : Prefixes) (m : Moffs) (s : State) : Res State :=
  moveToMoffs (.movMoffs16Ax p m) .w16 m s

/-- `MOV moffs32, EAX` (row 23, "A3", R179). -/
def execMovMoffs32Eax (p : Prefixes) (m : Moffs) (s : State) : Res State :=
  moveToMoffs (.movMoffs32Eax p m) .w32 m s

/-- `MOV moffs64, RAX` (row 24, "REX.W + A3", R180). -/
def execMovMoffs64Rax (p : Prefixes) (m : Moffs) (s : State) : Res State :=
  moveToMoffs (.movMoffs64Rax p m) .w64 m s

end Sys2Proof.Machine
end

