-- ==== Sys2Proof/Machine/MovRegRm.lean ====
section
/-! DEFINITION. Moves between a general register and a register or memory operand, opcodes 88 to 8B (R120 to R131). -/

namespace Sys2Proof.Machine

/-- `MOV r/m8, r8` (row 1, "88 /r", R122). -/
def execMovRm8R8 (p : Prefixes) (reg : BitVec 3) (rm : RM) (s : State) : Res State :=
  moveToRM (.movRm8R8 p reg rm) .w8 rm (regRead s (regNum p reg) .w8 p.rexPresent) s

/-- `MOV r/m8, r8 (REX)` (row 2, "REX + 88 /r", R123). -/
def execMovRm8R8Rex (p : Prefixes) (reg : BitVec 3) (rm : RM) (s : State) : Res State :=
  moveToRM (.movRm8R8Rex p reg rm) .w8 rm (regRead s (regNum p reg) .w8 p.rexPresent) s

/-- `MOV r/m16, r16` (row 3, "89 /r", R124). -/
def execMovRm16R16 (p : Prefixes) (reg : BitVec 3) (rm : RM) (s : State) : Res State :=
  moveToRM (.movRm16R16 p reg rm) .w16 rm (regRead s (regNum p reg) .w16 p.rexPresent) s

/-- `MOV r/m32, r32` (row 4, "89 /r", R125). -/
def execMovRm32R32 (p : Prefixes) (reg : BitVec 3) (rm : RM) (s : State) : Res State :=
  moveToRM (.movRm32R32 p reg rm) .w32 rm (regRead s (regNum p reg) .w32 p.rexPresent) s

/-- `MOV r/m64, r64` (row 5, "REX.W + 89 /r", R126). -/
def execMovRm64R64 (p : Prefixes) (reg : BitVec 3) (rm : RM) (s : State) : Res State :=
  moveToRM (.movRm64R64 p reg rm) .w64 rm (regRead s (regNum p reg) .w64 p.rexPresent) s

/-- `MOV r8, r/m8` (row 6, "8A /r", R127). -/
def execMovR8Rm8 (p : Prefixes) (reg : BitVec 3) (rm : RM) (s : State) : Res State :=
  moveFromRM (.movR8Rm8 p reg rm) .w8 reg rm s

/-- `MOV r8, r/m8 (REX)` (row 7, "REX + 8A /r", R128). -/
def execMovR8Rm8Rex (p : Prefixes) (reg : BitVec 3) (rm : RM) (s : State) : Res State :=
  moveFromRM (.movR8Rm8Rex p reg rm) .w8 reg rm s

/-- `MOV r16, r/m16` (row 8, "8B /r", R129). -/
def execMovR16Rm16 (p : Prefixes) (reg : BitVec 3) (rm : RM) (s : State) : Res State :=
  moveFromRM (.movR16Rm16 p reg rm) .w16 reg rm s

/-- `MOV r32, r/m32` (row 9, "8B /r", R130). -/
def execMovR32Rm32 (p : Prefixes) (reg : BitVec 3) (rm : RM) (s : State) : Res State :=
  moveFromRM (.movR32Rm32 p reg rm) .w32 reg rm s

/-- `MOV r64, r/m64` (row 10, "REX.W + 8B /r", R131). -/
def execMovR64Rm64 (p : Prefixes) (reg : BitVec 3) (rm : RM) (s : State) : Res State :=
  moveFromRM (.movR64Rm64 p reg rm) .w64 reg rm s

end Sys2Proof.Machine
end

