-- ==== Sys2Proof/Machine/Segment.lean ====
section
/-! DEFINITION. Selectors, descriptors (R28 to R30) and the load of a segment register, `LoadSeg` (R148 to R156). -/

namespace Sys2Proof.Machine

/-! ## Selectors (R28, R29) -/

/-- RPL, bits 1:0 (R28). -/
def selRpl (s : BitVec 16) : BitVec 2 := s.extractLsb' 0 2

/-- TI, bit 2: the LDT (R28). -/
def selTI (s : BitVec 16) : Bool := s.getLsbD 2

/-- `index << 3`: the byte offset of the descriptor in its table (R28, R63). -/
def selOffset (s : BitVec 16) : Nat := (s.extractLsb' 3 13).toNat * 8

/-- `IsNull(s)`: 0000H to 0003H (R29). -/
def isNull (s : BitVec 16) : Bool := s.extractLsb' 2 14 == 0#14

/-! ## Descriptors (R30) -/

/-- The type field, bits 43:40 (R30). -/
def descType (d : Word) : BitVec 4 := d.extractLsb' 40 4

/-- A, bit 40 (R30). -/
def descAccessed (d : Word) : Bool := d.getLsbD 40

/-- S, bit 44 (R30). -/
def descS (d : Word) : Bool := d.getLsbD 44

/-- DPL, bits 46:45 (R30). -/
def descDpl (d : Word) : BitVec 2 := d.extractLsb' 45 2

/-- P, bit 47 (R30). -/
def descP (d : Word) : Bool := d.getLsbD 47

/-- base[31:0], from bits 63:56 and 39:16 (R30). -/
def descBase (d : Word) : BitVec 32 := d.extractLsb' 56 8 ++ d.extractLsb' 16 24

/-- limit20, from bits 51:48 and 15:0 (R30). -/
def descLimit20 (d : Word) : BitVec 20 := d.extractLsb' 48 4 ++ d.extractLsb' 0 16

/-- The effective byte limit: `limit20`, or with G = 1 `(limit20 << 12) | FFFH` (R30). -/
def descLimit (d : Word) : BitVec 32 :=
  if d.getLsbD 55 then descLimit20 d ++ 0xFFF#12 else (descLimit20 d).setWidth 32

/-- The hidden attributes a load gives: type with A = 1, S, DPL, P, AVL, L, D/B, G (R155). -/
def descAttr (d : Word) : SegAttr where
  type := descType d ||| 1#4
  s := descS d
  dpl := descDpl d
  p := descP d
  avl := d.getLsbD 52
  l := d.getLsbD 53
  db := d.getLsbD 54
  g := d.getLsbD 55

/-- A data segment: S = 1, type bit 3 = 0 (R153). -/
def descIsData (d : Word) : Bool := descS d && !d.getLsbD 43

/-- A code segment: S = 1, type bit 3 = 1 (R153). -/
def descIsCode (d : Word) : Bool := descS d && d.getLsbD 43

/-- A writable data segment: S = 1, type bit 3 = 0, type bit 1 = 1 (R152). -/
def descWritableData (d : Word) : Bool := descIsData d && d.getLsbD 41

/-! ## The checks of a load -/

/-- `PrivFail(RPL, CPL, DPL)` under `DATA_SEG_PRIV_RULE` (R153). -/
def privFail (rule : PrivRule) (rpl cpl dpl : BitVec 2) : Bool :=
  match rule with
  | .both => decide (dpl < rpl) && decide (dpl < cpl)
  | .either => decide (dpl < rpl) || decide (dpl < cpl)

/-- The `#GP(selector)` tests of an SS load that need the descriptor or the selector (R152). -/
def ssLoadFault (s : State) (sel : BitVec 16) (d : Word) : Option Fault :=
  if selRpl sel ≠ s.cpl then some (.gp (.selector sel))
  else if descWritableData d = false then some (.gp (.selector sel))
  else if descDpl d ≠ s.cpl then some (.gp (.selector sel))
  else none

/-- The `#GP(selector)` tests of a DS, ES, FS or GS load (R153). -/
def dataLoadFault (s : State) (sel : BitVec 16) (d : Word) : Option Fault :=
  if (descIsData d || (descIsCode d && d.getLsbD 41)) = false then some (.gp (.selector sel))
  else if (descIsData d || (descIsCode d && !d.getLsbD 42)) = true ∧
      privFail s.impl.dataSegPrivRule (selRpl sel) s.cpl (descDpl d) = true then some (.gp (.selector sel))
  else none

/-- The present test, after the others (R154): `#SS(selector)` for SS, `#NP(selector)` for the rest. -/
def presentFault (k : SReg) (sel : BitVec 16) (d : Word) : Option Fault :=
  if descP d = false then some (if k = .ss then .ss (.selector sel) else .np sel) else none

/-- All the tests on the descriptor's contents, in the order of the listing (R148). -/
def descFault (s : State) (k : SReg) (sel : BitVec 16) (d : Word) : Option Fault :=
  match (if k = .ss then ssLoadFault s sel d else dataLoadFault s sel d) with
  | some f => some f
  | none => presentFault k sel d

/-! ## The descriptor table (R36, R63, R151) -/

/-- The base of the table the selector names (R151). -/
def tableBase (s : State) (sel : BitVec 16) : Word := if selTI sel then s.ldtr.base else s.gdtr.base

/-- The limit of the table the selector names (R36, R151). -/
def tableLimit (s : State) (sel : BitVec 16) : Nat :=
  if selTI sel then s.ldtr.limit.toNat else s.gdtr.limit.toNat

/-- The linear addresses of the 8 bytes of the descriptor (R63), 32 bits wide outside `Long64`, in `Compat` as in `Prot`
(R51, R160, D36). -/
def descAddrs (s : State) (sel : BitVec 16) : List Word :=
  byteAddrs s.wideLinear (tableBase s sel + BitVec.ofNat 64 (selOffset sel)) 8

/-- The tests before the descriptor is read (R151). -/
def tableFault (s : State) (sel : BitVec 16) : Option Fault :=
  if selTI sel = true ∧ s.ldtr.usable = false then some (.gp (.selector sel))
  else if tableLimit s sel < selOffset sel + 7 then some (.gp (.selector sel))
  else if s.mode = .long64 ∧ allCanonical s (descAddrs s sel) = false then some (.gp (.selector sel))
  else none

/-- The one exception that R222 leaves unordered with a page fault of the descriptor read: the RPL test of an SS load
needs no descriptor. It counts only where the read faults. -/
def rplFaults (s : State) (k : SReg) (sel : BitVec 16) : List Fault :=
  if k = .ss ∧ selRpl sel ≠ s.cpl ∧ (descAddrs s sel).any (fun a => (pageFault? s .read false a).isSome) = true then
    [.gp (.selector sel)]
  else []

/-- Fetch the descriptor as a system access (R63, R151). -/
def readDesc (s : State) (k : SReg) (sel : BitVec 16) : Res Word :=
  guardFault (tableFault s sel)
    (andThen (resolve s (rplFaults s k sel) .read false (descAddrs s sel)) fun as => .next (s.mem.readAll as))

/-- Write the accessed bit, bit 40, of the descriptor in memory to 1 if `SET_ACCESSED` and it is 0 (R63, R155): the
byte that holds it is the sixth, and its other bits are as read. DEDUCED: the rules give the write no width, and only that
byte is accessed (log 15). -/
def setAccessedBit (s : State) (sel : BitVec 16) (d : Word) : Res State :=
  if s.impl.setAccessed = true ∧ descAccessed d = false then
    andThen (resolve s [] .write false ((descAddrs s sel).drop 5 |>.take 1)) fun as =>
      storeAt s as ((d.extractLsb' 40 8 ||| 1#8).setWidth 64)
  else .next s

/-! ## LoadSeg (R148 to R155) -/

/-- `Real` (R149): no check; limit and attributes keep their values. -/
def loadReal (s : State) (k : SReg) (sel : BitVec 16) : State :=
  s.setSreg k { s.sreg k with sel := sel, base := sel.setWidth 64 <<< 4, usable := true }

/-- `V86` (R149): no check; limit FFFFH, attributes of a present, writable, expand-up data segment of DPL 3. The bits
of the attributes that R149 does not name are free values. -/
def loadV86 (s : State) (k : SReg) (sel : BitVec 16) : State :=
  s.draw.2.setSreg k {
    sel := sel
    base := sel.setWidth 64 <<< 4
    limit := 0xFFFF
    attr := {
      type := 0b001#3 ++ s.draw.1.extractLsb' 0 1
      s := true
      dpl := 3
      p := true
      avl := s.draw.1.getLsbD 1
      l := s.draw.1.getLsbD 2
      db := s.draw.1.getLsbD 3
      g := s.draw.1.getLsbD 4 }
    usable := true }

/-- The attributes made of 12 free bits. -/
def freeAttr (v : Word) : SegAttr where
  type := v.extractLsb' 0 4
  s := v.getLsbD 4
  dpl := v.extractLsb' 5 2
  p := v.getLsbD 7
  avl := v.getLsbD 8
  l := v.getLsbD 9
  db := v.getLsbD 10
  g := v.getLsbD 11

/-- The load of an allowed NULL selector (R150): base, limit and attributes per `NULL_LOAD_BASE` (D6). D6 gives the free
base no width and R31 says that only bits 31:0 can be non-zero after a load. DESIGN CHOICE: under `unspecified` all 64 bits
of the base are free, bits 63:32 among them, and under `unchanged` bits 63:32 keep what they held (log 14). -/
def loadNull (s : State) (k : SReg) (sel : BitVec 16) : State :=
  match s.impl.nullLoadBase with
  | .zero => s.setSreg k { sel := sel, base := 0, limit := 0, attr := freeAttr 0, usable := false }
  | .unchanged => s.setSreg k { s.sreg k with sel := sel, usable := false }
  | .unspecified =>
    s.draw.2.draw.2.draw.2.setSreg k {
      sel := sel
      base := s.draw.1
      limit := s.draw.2.draw.1.extractLsb' 0 32
      attr := freeAttr s.draw.2.draw.2.draw.1
      usable := false }

/-- Whether a NULL selector may be loaded (R150): into SS only in `Long64`, at CPL below 3, with RPL = CPL. -/
def nullAllowed (s : State) (k : SReg) (sel : BitVec 16) : Bool :=
  k != .ss || (s.mode == .long64 && s.cpl != 3#2 && selRpl sel == s.cpl)

/-- The load from a descriptor (R155). -/
def loadFromDesc (s : State) (k : SReg) (sel : BitVec 16) (d : Word) : State :=
  s.setSreg k {
    sel := sel
    base := (descBase d).setWidth 64
    limit := descLimit d
    attr := descAttr d
    usable := true }

/-- The load of a non-NULL selector with its checks (R151 to R155). -/
def loadDescriptor (s : State) (k : SReg) (sel : BitVec 16) : Res State :=
  andThen (readDesc s k sel) fun d =>
    guardFault (descFault s k sel d)
      (andThen (setAccessedBit s sel d) fun t => .next (loadFromDesc t k sel d))

/-- `LoadSeg(k, s)` (R148). -/
def loadSeg (s : State) (k : SReg) (sel : BitVec 16) : Res State :=
  match s.mode with
  | .real => .next (loadReal s k sel)
  | .v86 => .next (loadV86 s k sel)
  | .prot | .compat | .long64 =>
    if isNull sel then
      if nullAllowed s k sel then .next (loadNull s k sel) else raise (.gp .zero)
    else loadDescriptor s k sel

/-! ## The interrupt inhibition (R39, R156, R158) -/

/-- The completion of a segment-register load: after a load of SS the inhibition is on if it was off when the
instruction began, and free if it was on (R156, R158); after any other load it is off (R39). -/
def completeLoad (before : Bool) (k : SReg) (t : State) (len : Nat) : State :=
  if k = .ss then
    if before then complete t.draw.2 len (t.draw.1.getLsbD 0) else complete t len true
  else complete t len false

/-- An interrupt may be delivered at this boundary (R157, R226). -/
def State.interruptible (s : State) : Bool := !s.ssInhibit

/-! ## Moves to and from segment registers -/

/-- REX.R = 1 on opcode 8C or 8E is refused (R144, D13), after the exceptions of the encoding. -/
def runSreg (i : Instr) (s : State) (move : Res State) : Res State :=
  guardFault (encodingFault s i) (if i.prefixes.r then .refused .rexROnSreg else move)

/-- `SREG_MEM_BYTES(opsize)` (R147). -/
def sregMemBytes (s : State) : OpSize → Nat
  | .o16 => 2
  | .o32 => match s.impl.sregMemBytes with | .two => 2 | .operandSize => 4
  | .o64 => match s.impl.sregMemBytes with | .two => 2 | .operandSize => 8

/-- Write a selector to a register of opcode 8C at an operand size (R140, R141, R146). -/
def writeSelReg (s : State) (p : Prefixes) (o : OpSize) (rm : BitVec 3) (sel : BitVec 16) : State :=
  match o with
  | .o16 => regWrite s (rmNum p rm) .w16 p.rexPresent (sel.setWidth 64)
  | .o32 =>
    match s.impl.sregHi16 with
    | .zero => regWrite s (rmNum p rm) .w32 p.rexPresent (sel.setWidth 64)
    | .undefined =>
      regWrite s.draw.2 (rmNum p rm) .w32 p.rexPresent ((s.draw.1.extractLsb' 0 16 ++ sel).setWidth 64)
  | .o64 => regWrite s (rmNum p rm) .w64 p.rexPresent (sel.setWidth 64)

/-- Opcode 8C at an operand size (R140, R141): the visible selector is copied; no privilege, no descriptor. -/
def moveFromSreg (i : Instr) (o : OpSize) (reg : BitVec 3) (rm : RM) (s : State) : Res State :=
  runSreg i s
    (match sregOfField reg with
     | none => raise .ud
     | some k =>
       andThen
         (match rm with
          | .reg n => .next (writeSelReg s i.prefixes o n (s.sreg k).sel)
          | .mem m =>
            segWrite s (memSeg s i.prefixes m) (effAddr s i.prefixes i.length m) (sregMemBytes s o)
              ((s.sreg k).sel.setWidth 64))
         fun t => .next (complete t i.length false))

/-- The selector operand of opcode 8E (R142, R143): the low 16 bits of a register, or of `SREG_MEM_BYTES` of memory. -/
def readSel (s : State) (p : Prefixes) (len : Nat) (o : OpSize) : RM → Res (BitVec 16)
  | .reg n => .next ((s.getX (rmNum p n)).extractLsb' 0 16)
  | .mem m =>
    andThen (segRead s (memSeg s p m) (effAddr s p len m) (sregMemBytes s o)) fun v => .next (v.extractLsb' 0 16)

/-- Opcode 8E at an operand size (R142, R143, R145, R161): `#UD` of the encoding, then the operand, then `LoadSeg`. -/
def moveToSreg (i : Instr) (o : OpSize) (reg : BitVec 3) (rm : RM) (s : State) : Res State :=
  runSreg i s
    (match sregOfField reg with
     | none => raise .ud
     | some .cs => raise .ud
     | some k =>
       andThen (readSel s i.prefixes i.length o rm) fun sel =>
         andThen (loadSeg s k sel) fun t => .next (completeLoad s.ssInhibit k t i.length))

end Sys2Proof.Machine
end

