-- ==== Sys2Proof/Machine/MovSreg.lean ====
section
/-! DEFINITION. Moves to and from segment registers, opcodes 8C and 8E (R140 to R162). -/

namespace Sys2Proof.Machine

/-- `MOV r/m16, Sreg` (row 11, "8C /r", R140). -/
def execMovRm16Sreg (p : Prefixes) (reg : BitVec 3) (rm : RM) (s : State) : Res State :=
  moveFromSreg (.movRm16Sreg p reg rm) (opSize s.ctx p) reg rm s

/-- `MOV r/m64, Sreg` (row 12, "REX.W + 8C /r", R141). -/
def execMovRm64Sreg (p : Prefixes) (reg : BitVec 3) (rm : RM) (s : State) : Res State :=
  moveFromSreg (.movRm64Sreg p reg rm) .o64 reg rm s

/-- `MOV Sreg, r/m16` (row 13, "8E /r", R142). -/
def execMovSregRm16 (p : Prefixes) (reg : BitVec 3) (rm : RM) (s : State) : Res State :=
  moveToSreg (.movSregRm16 p reg rm) (opSize s.ctx p) reg rm s

/-- `MOV Sreg, r/m64` (row 14, "REX.W + 8E /r", R143). -/
def execMovSregRm64 (p : Prefixes) (reg : BitVec 3) (rm : RM) (s : State) : Res State :=
  moveToSreg (.movSregRm64 p reg rm) .o64 reg rm s

end Sys2Proof.Machine
end

