-- ==== Sys2Proof/Machine/Dispatch.lean ====
section
/-! DEFINITION. Which meaning each instruction has: one arm per row of the opcode table (R101). -/

namespace Sys2Proof.Machine

def exec (i : Instr) (s : State) : Host.Outcome State Fault Refusal :=
  match i with
  | .movRm8R8 p reg rm => Sys2Proof.Machine.execMovRm8R8 p reg rm s
  | .movRm8R8Rex p reg rm => Sys2Proof.Machine.execMovRm8R8Rex p reg rm s
  | .movRm16R16 p reg rm => Sys2Proof.Machine.execMovRm16R16 p reg rm s
  | .movRm32R32 p reg rm => Sys2Proof.Machine.execMovRm32R32 p reg rm s
  | .movRm64R64 p reg rm => Sys2Proof.Machine.execMovRm64R64 p reg rm s
  | .movR8Rm8 p reg rm => Sys2Proof.Machine.execMovR8Rm8 p reg rm s
  | .movR8Rm8Rex p reg rm => Sys2Proof.Machine.execMovR8Rm8Rex p reg rm s
  | .movR16Rm16 p reg rm => Sys2Proof.Machine.execMovR16Rm16 p reg rm s
  | .movR32Rm32 p reg rm => Sys2Proof.Machine.execMovR32Rm32 p reg rm s
  | .movR64Rm64 p reg rm => Sys2Proof.Machine.execMovR64Rm64 p reg rm s
  | .movRm16Sreg p reg rm => Sys2Proof.Machine.execMovRm16Sreg p reg rm s
  | .movRm64Sreg p reg rm => Sys2Proof.Machine.execMovRm64Sreg p reg rm s
  | .movSregRm16 p reg rm => Sys2Proof.Machine.execMovSregRm16 p reg rm s
  | .movSregRm64 p reg rm => Sys2Proof.Machine.execMovSregRm64 p reg rm s
  | .movAlMoffs8 p m => Sys2Proof.Machine.execMovAlMoffs8 p m s
  | .movAlMoffs8RexW p m => Sys2Proof.Machine.execMovAlMoffs8RexW p m s
  | .movAxMoffs16 p m => Sys2Proof.Machine.execMovAxMoffs16 p m s
  | .movEaxMoffs32 p m => Sys2Proof.Machine.execMovEaxMoffs32 p m s
  | .movRaxMoffs64 p m => Sys2Proof.Machine.execMovRaxMoffs64 p m s
  | .movMoffs8Al p m => Sys2Proof.Machine.execMovMoffs8Al p m s
  | .movMoffs8AlRexW p m => Sys2Proof.Machine.execMovMoffs8AlRexW p m s
  | .movMoffs16Ax p m => Sys2Proof.Machine.execMovMoffs16Ax p m s
  | .movMoffs32Eax p m => Sys2Proof.Machine.execMovMoffs32Eax p m s
  | .movMoffs64Rax p m => Sys2Proof.Machine.execMovMoffs64Rax p m s
  | .movR8Imm8 p r imm => Sys2Proof.Machine.execMovR8Imm8 p r imm s
  | .movR8Imm8Rex p r imm => Sys2Proof.Machine.execMovR8Imm8Rex p r imm s
  | .movR16Imm16 p r imm => Sys2Proof.Machine.execMovR16Imm16 p r imm s
  | .movR32Imm32 p r imm => Sys2Proof.Machine.execMovR32Imm32 p r imm s
  | .movR64Imm64 p r imm => Sys2Proof.Machine.execMovR64Imm64 p r imm s
  | .movRm8Imm8 p rm imm => Sys2Proof.Machine.execMovRm8Imm8 p rm imm s
  | .movRm8Imm8Rex p rm imm => Sys2Proof.Machine.execMovRm8Imm8Rex p rm imm s
  | .movRm16Imm16 p rm imm => Sys2Proof.Machine.execMovRm16Imm16 p rm imm s
  | .movRm32Imm32 p rm imm => Sys2Proof.Machine.execMovRm32Imm32 p rm imm s
  | .movRm64Imm32 p rm imm => Sys2Proof.Machine.execMovRm64Imm32 p rm imm s

end Sys2Proof.Machine
end

