-- ==== Sys2Proof/Machine/Fetch.lean ====
section
/-! DEFINITION. Fetching an instruction's bytes at CS:pc (D1, R25) from the program (R70, D16), naming why a step is refused,
and launching the bytes of a table word. The checks of a fetch are outside the spec (D22): a byte that cannot be fetched is
simply not there. -/

namespace Sys2Proof.Machine

/-- The offset in CS of byte `i` of the instruction at `pc` (R25). -/
def fetchOffset (s : State) (i : Nat) : Word :=
  match s.mode with
  | .long64 => s.rip + BitVec.ofNat 64 i
  | _ => (s.rip.extractLsb' 0 32).setWidth 64 + BitVec.ofNat 64 i

/-- A byte at an offset in CS can be fetched: within the limit, or canonical in `Long64` (D22). -/
def fetchable (s : State) (off : Word) : Bool :=
  match s.mode with
  | .long64 => canonical s.impl.vaBits off
  | _ => s.seg.cs.within off 1

/-- The physical address of byte `i` of the instruction at `pc`, if it can be reached (R25, R54, R62). -/
def fetchPhys (s : State) (i : Nat) : Option Nat :=
  if fetchable s (fetchOffset s i) then
    (physical? s .read (s.cpl == 3#2) (linearAddr s .cs (fetchOffset s i))).filter (fun a => !inRegions s.devices a)
  else none

/-- The physical address of byte `i` of the instruction at `pc`, if it can be reached and belongs to the program: no other
byte is executed, so no store is ever seen by a fetch (R70, R250, D16). -/
def fetchAddr (s : State) (i : Nat) : Option Nat := (fetchPhys s i).filter (inRegions s.program)

/-- The bytes at `pc` from byte `i` on, at most `n`, up to the first that cannot be fetched (D1). -/
def fetchFrom (s : State) : Nat → Nat → List Byte
  | _, 0 => []
  | i, n + 1 =>
    match fetchAddr s i with
    | some a => s.mem.read a :: fetchFrom s (i + 1) n
    | none => []

/-- The bytes the decoder is given (D1). -/
def fetchBytes (s : State) : List Byte := fetchFrom s 0 maxFetch

/-- Why the bytes ran out: the next one lies outside the program (D16), or cannot be reached at all (D22). -/
def fetchStop (s : State) : Refusal :=
  if (fetchPhys s (fetchBytes s).length).isSome then .outsideProgram else .fetchUnavailable

/-- The refusal of a step whose bytes do not decode (D28): bytes run out only where the fetch could not go on. -/
def refusalOf (s : State) : Reject → Refusal
  | .truncated => fetchStop s
  | .repPrefix => .undecodable .repPrefix
  | .prefixArrangement => .undecodable .prefixArrangement
  | .notMov op => .undecodable (.notMov op)
  | .notMovGroup op reg => .undecodable (.notMovGroup op reg)

/-- Store bytes where the fetch reaches them, from byte `i` on; a byte that cannot be reached is left out. -/
def placeBytes (s : State) : Nat → List Byte → Memory → Memory
  | _, [], m => m
  | i, b :: bs, m =>
    match fetchPhys s i with
    | some a => placeBytes s (i + 1) bs (m.write a b)
    | none => placeBytes s (i + 1) bs m

/-- The places of the `n` bytes at `pc` that the fetch reaches, as regions of a program. -/
def placeRegions (s : State) (n : Nat) : List Region := (List.range n).filterMap fun i => (fetchPhys s i).map fun a => ⟨a, 1⟩

end Sys2Proof.Machine
end

