-- ==== Sys2Proof/Machine/Step.lean ====
section
/-! DEFINITION. One step (D1, D28): decode the bytes at `pc` and execute the MOV they are, or refuse. -/

namespace Sys2Proof.Machine

/-- One step (D1): fetch, decode, execute; bytes that are not one of the 34 forms are refused (D28). -/
def step (s : State) : Host.Outcome State Fault Refusal :=
  match decode s.ctx (fetchBytes s) with
  | .ok (i, _) => exec i s
  | .error why => .refused (refusalOf s why)

/-- The state with a table word's bytes, zeros after them up to the longest instruction, where the next step fetches, as a
program launched there (D16): the bytes are placed and their addresses belong to the program. -/
def State.withFetchWord (s : State) (nbits w : Nat) : State :=
  { s with
    mem := placeBytes s 0 (tableBytes nbits w) s.mem
    program := placeRegions s maxFetch ++ s.program }

end Sys2Proof.Machine
end

