-- ==== Sys2Proof/WellFormed.lean ====
section
/-! DEFINITION. Which instructions can be encoded in a mode: the checks that the rows of R101, the modes of R102 and
the address sizes of R85 impose. Every instruction the decoder answers passes them. -/

namespace Sys2Proof

/-- A REX prefix exists only in mode `Long64` (R82, R102). -/
def Prefixes.wf (c : Ctx) (p : Prefixes) : Bool := p.rex.isNone || c.mode == .long64

/-- The memory operand belongs to the address size (R85, R89 to R91), and a special case of the encoding is not
written as the ordinary one. -/
def MemRef.wf (a : AdSize) : MemRef → Bool
  | .based16 b d => a == .a16 && !(b == .bp && d == .none)
  | .abs16 _ => a == .a16
  | .based rm d => a != .a16 && rm != 4#3 && !(rm == 5#3 && d == .none)
  | .disp32 _ => a != .a16
  | .sib _ _ b d => a != .a16 && !(b == 5#3 && d == .none)
  | .sibAbs _ _ _ => a != .a16

/-- The operand "ModRM:r/m" belongs to the address size. -/
def RM.wf (a : AdSize) : RM → Bool
  | .reg _ => true
  | .mem m => m.wf a

/-- The offset has `adsize` bits (R97, R170). -/
def Moffs.wf : AdSize → Moffs → Bool
  | .a16, .off16 _ => true
  | .a32, .off32 _ => true
  | .a64, .off64 _ => true
  | _, _ => false

/-- The instruction can be encoded in the context: its row is the one R101 selects. -/
def Instr.wf (c : Ctx) : Instr → Bool
  | .movRm8R8 p _ rm => p.wf c && !p.rexPresent && rm.wf (adSize c p)
  | .movRm8R8Rex p _ rm => p.wf c && p.rexPresent && rm.wf (adSize c p)
  | .movRm16R16 p _ rm => p.wf c && opSize c p == .o16 && rm.wf (adSize c p)
  | .movRm32R32 p _ rm => p.wf c && opSize c p == .o32 && rm.wf (adSize c p)
  | .movRm64R64 p _ rm => p.wf c && opSize c p == .o64 && rm.wf (adSize c p)
  | .movR8Rm8 p _ rm => p.wf c && !p.rexPresent && rm.wf (adSize c p)
  | .movR8Rm8Rex p _ rm => p.wf c && p.rexPresent && rm.wf (adSize c p)
  | .movR16Rm16 p _ rm => p.wf c && opSize c p == .o16 && rm.wf (adSize c p)
  | .movR32Rm32 p _ rm => p.wf c && opSize c p == .o32 && rm.wf (adSize c p)
  | .movR64Rm64 p _ rm => p.wf c && opSize c p == .o64 && rm.wf (adSize c p)
  | .movRm16Sreg p _ rm => p.wf c && opSize c p != .o64 && rm.wf (adSize c p)
  | .movRm64Sreg p _ rm => p.wf c && opSize c p == .o64 && rm.wf (adSize c p)
  | .movSregRm16 p _ rm => p.wf c && opSize c p != .o64 && rm.wf (adSize c p)
  | .movSregRm64 p _ rm => p.wf c && opSize c p == .o64 && rm.wf (adSize c p)
  | .movAlMoffs8 p m => p.wf c && !p.w && m.wf (adSize c p)
  | .movAlMoffs8RexW p m => p.wf c && p.w && m.wf (adSize c p)
  | .movAxMoffs16 p m => p.wf c && opSize c p == .o16 && m.wf (adSize c p)
  | .movEaxMoffs32 p m => p.wf c && opSize c p == .o32 && m.wf (adSize c p)
  | .movRaxMoffs64 p m => p.wf c && opSize c p == .o64 && m.wf (adSize c p)
  | .movMoffs8Al p m => p.wf c && !p.w && m.wf (adSize c p)
  | .movMoffs8AlRexW p m => p.wf c && p.w && m.wf (adSize c p)
  | .movMoffs16Ax p m => p.wf c && opSize c p == .o16 && m.wf (adSize c p)
  | .movMoffs32Eax p m => p.wf c && opSize c p == .o32 && m.wf (adSize c p)
  | .movMoffs64Rax p m => p.wf c && opSize c p == .o64 && m.wf (adSize c p)
  | .movR8Imm8 p _ _ => p.wf c && !p.rexPresent
  | .movR8Imm8Rex p _ _ => p.wf c && p.rexPresent
  | .movR16Imm16 p _ _ => p.wf c && opSize c p == .o16
  | .movR32Imm32 p _ _ => p.wf c && opSize c p == .o32
  | .movR64Imm64 p _ _ => p.wf c && opSize c p == .o64
  | .movRm8Imm8 p rm _ => p.wf c && !p.rexPresent && rm.wf (adSize c p)
  | .movRm8Imm8Rex p rm _ => p.wf c && p.rexPresent && rm.wf (adSize c p)
  | .movRm16Imm16 p rm _ => p.wf c && opSize c p == .o16 && rm.wf (adSize c p)
  | .movRm32Imm32 p rm _ => p.wf c && opSize c p == .o32 && rm.wf (adSize c p)
  | .movRm64Imm32 p rm _ => p.wf c && opSize c p == .o64 && rm.wf (adSize c p)

end Sys2Proof
end

