-- ==== Sys2Proof/Safety.lean ====
section
/-! DEFINITION. The terms the statements use: what a step leaves alone, and the invariant of the machine. -/

namespace Sys2Proof.Machine

/-! ## What a step leaves alone (R44) -/

/-- The state no MOV form writes: flags, control registers, CPL, table registers, the program's extent, the platform and
the parameters (R26, R33, R35, R36, R38). -/
def SystemKept (s t : State) : Prop :=
  t.rflags = s.rflags ∧ t.cr0 = s.cr0 ∧ t.cr2 = s.cr2 ∧ t.cr3 = s.cr3 ∧ t.efer = s.efer ∧ t.cpl = s.cpl ∧
    t.gdtr = s.gdtr ∧ t.ldtr = s.ldtr ∧ t.program = s.program ∧ t.devices = s.devices ∧ t.impl = s.impl

/-- Every general register but `d` is unchanged. -/
def RegsKeptBut (d : BitVec 4) (s t : State) : Prop := ∀ j, j ≠ d → t.getX j = s.getX j

/-- Every general register is unchanged. -/
def RegsKept (s t : State) : Prop := ∀ j, t.getX j = s.getX j

/-- Every segment register but `k` is unchanged, hidden parts included. -/
def SregsKeptBut (k : SReg) (s t : State) : Prop := ∀ j, j ≠ k → t.sreg j = s.sreg j

/-- Every byte of memory is unchanged. -/
def MemKept (s t : State) : Prop := ∀ a, t.mem.read a = s.mem.read a

/-- Every byte of memory but those at the listed addresses is unchanged. -/
def MemKeptBut (as : List Nat) (s t : State) : Prop := ∀ a, a ∉ as → t.mem.read a = s.mem.read a

/-- `pc` has advanced by the length of the instruction, modulo `2^64` in `Long64` and `2^32` elsewhere (R25). -/
def PcAdvanced (i : Instr) (s t : State) : Prop :=
  (s.mode = .long64 → t.rip = s.rip + BitVec.ofNat 64 i.length) ∧
    (s.mode ≠ .long64 → t.rip.toNat = (s.rip.toNat + i.length) % 2 ^ 32)

/-- What a MOV that writes the general register `d` leaves alone, where `pc` goes, and that no inhibition is left. -/
def RegisterMove (i : Instr) (d : BitVec 4) (s t : State) : Prop :=
  RegsKeptBut d s t ∧ t.seg = s.seg ∧ MemKept s t ∧ SystemKept s t ∧ PcAdvanced i s t ∧ t.ssInhibit = false

/-- What a MOV that stores at the listed addresses leaves alone, where `pc` goes, and that no inhibition is left. -/
def StoreMove (i : Instr) (as : List Nat) (s t : State) : Prop :=
  RegsKept s t ∧ t.seg = s.seg ∧ MemKeptBut as s t ∧ SystemKept s t ∧ PcAdvanced i s t ∧ t.ssInhibit = false

/-- What a MOV that loads the segment register `k` leaves alone, where `pc` goes, and the inhibition (R39, R156): off for
any register but SS, on after a load of SS that found it off, not determined after one that found it on. -/
def SregMove (i : Instr) (k : SReg) (s t : State) : Prop :=
  RegsKept s t ∧ SregsKeptBut k s t ∧ SystemKept s t ∧ PcAdvanced i s t ∧
    (k ≠ .ss → t.ssInhibit = false) ∧ (k = .ss → s.ssInhibit = false → t.ssInhibit = true)

/-- Byte `k` of the value lies at the `k`-th address (R50). -/
def Stored (t : State) (as : List Nat) (v : Word) : Prop :=
  ∀ (k : Nat) (h : k < as.length), t.mem.read as[k] = (v >>> (8 * k)).setWidth 8

/-! ## Addresses (R89 to R92) -/

/-- The 16 low bits of a register, as a number: BX, BP, SI, DI are those of registers 3, 5, 6, 7 (R89). -/
def lowWord (s : State) (i : BitVec 4) : Nat := (s.getX i).toNat % 2 ^ 16

/-- A displacement as a signed number, 0 where there is none (R92). -/
def dispInt {w : Nat} : Disp w → Int
  | .none => 0
  | .short d => d.toInt
  | .full d => d.toInt

/-! ## Bytes of registers (R21, R22) -/

/-- The register a byte-register number without REX lies in: 0 to 3 for AL, CL, DL, BL and for AH, CH, DH, BH. -/
def legacyByteReg (n : BitVec 3) : BitVec 4 := (n &&& 3#3).setWidth 4

/-- The byte a byte-register number without REX names: bits 7:0 for 0 to 3, bits 15:8 for 4 to 7 (R22). -/
def legacyByte (s : State) (n : BitVec 3) : Byte :=
  if n < 4#3 then (s.getX (legacyByteReg n)).extractLsb' 0 8 else (s.getX (legacyByteReg n)).extractLsb' 8 8

/-- The register after its byte-register number `n` without REX was written, its other 56 bits kept (R23). -/
def withLegacyByte (x : Word) (n : BitVec 3) (b : Byte) : Word :=
  if n < 4#3 then x.extractLsb' 8 56 ++ b else x.extractLsb' 16 48 ++ b ++ x.extractLsb' 0 8

/-! ## Classes of instructions -/

/-- The fourteen rows that need a REX prefix (R102). -/
def isRexRow : Instr → Bool
  | .movRm8R8Rex _ _ _ => true
  | .movRm64R64 _ _ _ => true
  | .movR8Rm8Rex _ _ _ => true
  | .movR64Rm64 _ _ _ => true
  | .movRm64Sreg _ _ _ => true
  | .movSregRm64 _ _ _ => true
  | .movAlMoffs8RexW _ _ => true
  | .movRaxMoffs64 _ _ => true
  | .movMoffs8AlRexW _ _ => true
  | .movMoffs64Rax _ _ => true
  | .movR8Imm8Rex _ _ _ => true
  | .movR64Imm64 _ _ _ => true
  | .movRm8Imm8Rex _ _ _ => true
  | .movRm64Imm32 _ _ _ => true
  | .movRm8R8 _ _ _ => false
  | .movRm16R16 _ _ _ => false
  | .movRm32R32 _ _ _ => false
  | .movR8Rm8 _ _ _ => false
  | .movR16Rm16 _ _ _ => false
  | .movR32Rm32 _ _ _ => false
  | .movRm16Sreg _ _ _ => false
  | .movSregRm16 _ _ _ => false
  | .movAlMoffs8 _ _ => false
  | .movAxMoffs16 _ _ => false
  | .movEaxMoffs32 _ _ => false
  | .movMoffs8Al _ _ => false
  | .movMoffs16Ax _ _ => false
  | .movMoffs32Eax _ _ => false
  | .movR8Imm8 _ _ _ => false
  | .movR16Imm16 _ _ _ => false
  | .movR32Imm32 _ _ _ => false
  | .movRm8Imm8 _ _ _ => false
  | .movRm16Imm16 _ _ _ => false
  | .movRm32Imm32 _ _ _ => false

/-- The modes in which a segment-register load is checked (R148). -/
def checkedMode (m : Mode) : Prop := m = .prot ∨ m = .compat ∨ m = .long64

/-! ## The state a run may start from -/

/-- The constraints R241 puts on an initial state: `csD` 0 in `Real` and `V86`, CPL 3 in `V86`, CS usable, `pc` canonical in
`Long64`, no inhibition. -/
def State.Startable (s : State) : Prop :=
  (s.mode = .real ∨ s.mode = .v86 → s.csD = false) ∧ (s.mode = .v86 → s.cpl = 3#2) ∧ s.seg.cs.usable = true ∧
    (s.mode = .long64 → canonical s.impl.vaBits s.rip = true) ∧ s.ssInhibit = false

/-- What R241 says is normally so: in `Real` and `V86` the base of every segment register is sixteen times its selector, and
so below `2^20`. -/
def State.NormalBases (s : State) : Prop :=
  s.mode = .real ∨ s.mode = .v86 → ∀ k, (s.sreg k).base.toNat = (s.sreg k).sel.toNat * 16

/-! ## The invariant -/

/-- The standing conditions of a machine state that every step keeps: the memory's canonical form; `pc` 32 bits wide
outside `Long64` (R25); CPL 3 in `V86` and CS usable (R241); and, in the modes that check a load, SS usable only with a
writable data segment, DS, ES, FS, GS usable only with a data or readable code segment (R53). -/
def State.Inv (s : State) : Prop :=
  s.mem.wf = true ∧ (s.mode ≠ .long64 → s.rip.toNat < 2 ^ 32) ∧ (s.mode = .v86 → s.cpl = 3#2) ∧
    s.seg.cs.usable = true ∧
    (checkedMode s.mode →
      (s.seg.ss.usable = true → s.seg.ss.attr.writable = true) ∧
      ∀ k, k ≠ .ss → k ≠ .cs → (s.sreg k).usable = true → (s.sreg k).attr.executeOnly = false)

end Sys2Proof.Machine
end

