-- ==== Sys2Proof/Certificates/Slice0/Obligations.lean ====
section
/-! DEFINITION. The statements for the provers. Every one holds for every value of the free values and of the
implementation parameters: those are part of the state or have no body. -/

open Sys2Proof Sys2Proof.Machine

/-! ## Encoding -/

/-- Decoding the bytes of any instruction that can be encoded in the context gives it back, whatever follows (R80, R101).
It says that no bit of an encoding is dropped. -/
def Obligations.DecodeEncodeRoundTrip : Prop :=
  ∀ (c : Ctx) (i : Instr) (rest : List Byte), i.wf c = true → decode c (encode i ++ rest) = .ok (i, rest)

/-- Every instruction the decoder answers is one the context can encode, its row the one R101 selects, and the decoder consumes
exactly the instruction's length (R100, R101). The operand and address sizes that select it are those of R84 and R85: in
`Long64` by REX.W, then 66H, and by 67H; in the other modes the default that csD gives, or with 66H or 67H the other one. -/
def Obligations.DecodedIsWellFormed : Prop :=
  (∀ (c : Ctx) (bs rest : List Byte) (i : Instr), decode c bs = .ok (i, rest) →
    i.wf c = true ∧ bs.length = i.length + rest.length ∧ bs.drop i.length = rest) ∧
  (∀ (c : Ctx) (p : Prefixes), c.mode = .long64 →
    (∀ x, p.rex = some x → x.w = true → opSize c p = .o64) ∧
    ((∀ x, p.rex = some x → x.w = false) → opSize c p = if p.opsz = true then .o16 else .o32) ∧
    adSize c p = if p.adsz = true then .a32 else .a64) ∧
  (∀ (c : Ctx) (p : Prefixes) (d : Nat), c.mode ≠ .long64 → d = (if c.csD = true then 32 else 16) →
    (opSize c p = if (if p.opsz = true then 48 - d else d) = 32 then .o32 else .o16) ∧
    (adSize c p = if (if p.adsz = true then 48 - d else d) = 32 then .a32 else .a16))

/-- Outside `Long64` no instruction with a REX prefix and none of the fourteen REX rows is ever decoded, and a processor
without `HAS_LONG_MODE` is never in `Long64` or `Compat` (R102). -/
def Obligations.RexRowsOnlyInLong64 : Prop :=
  (∀ (c : Ctx) (bs rest : List Byte) (i : Instr), c.mode ≠ .long64 → decode c bs = .ok (i, rest) →
    i.prefixes.rex = none ∧ isRexRow i = false) ∧
  (∀ s : State, s.impl.hasLongMode = false → s.mode ≠ .long64 ∧ s.mode ≠ .compat)

/-- C6 and C7 with ModRM.reg from 001 to 111 are never decoded, with any prefixes and in any mode (R105). -/
def Obligations.GroupOpcodesOtherThanZeroRefused : Prop :=
  ∀ (c : Ctx) (p : Prefixes) (op : Byte) (md : BitVec 2) (reg rm : BitVec 3) (bs : List Byte) (r : Instr × List Byte),
    (op = 0xC6#8 ∨ op = 0xC7#8) → reg ≠ 0#3 → p.wf c = true →
    decode c (p.bytes ++ op :: byte233 md reg rm :: bs) ≠ .ok r

/-- Bytes with F2H or F3H among the legacy prefixes, in any order, are never decoded; where it is the first prefix they are
refused by that name (R106). -/
def Obligations.RepPrefixesRefused : Prop :=
  ∀ (c : Ctx) (pre bs : List Byte), (∀ b ∈ pre, isLegacyPrefix b = true) → (0xF2#8 ∈ pre ∨ 0xF3#8 ∈ pre) →
    (∀ r, decode c (pre ++ bs) ≠ .ok r) ∧
    (pre.head? = some 0xF2#8 ∨ pre.head? = some 0xF3#8 → decode c (pre ++ bs) = .error .repPrefix)

/-- A few encodings written out from R101 decode to the instruction they stand for. -/
def Obligations.WrittenWordsDecode : Prop :=
  decode ⟨.long64, false⟩ [0x4D, 0x89, 0xC8] =
      .ok (.movRm64R64 ⟨false, none, false, false, some ⟨true, true, false, true⟩⟩ 1 (.reg 0), []) ∧
  decode ⟨.real, false⟩ [0x26, 0xA0, 0x34, 0x12] =
      .ok (.movAlMoffs8 ⟨false, some .es, false, false, none⟩ (.off16 0x1234), []) ∧
  decode ⟨.prot, true⟩ [0xC7, 0x45, 0xFC, 0x2A, 0, 0, 0] =
      .ok (.movRm32Imm32 .empty (.mem (.based 5 (.short 0xFC))) 0x2A, []) ∧
  decode ⟨.prot, true⟩ [0x66, 0x8E, 0xD8] =
      .ok (.movSregRm16 ⟨false, none, true, false, none⟩ 3 (.reg 0), [])

/-! ## The step -/

/-- Where the bytes at `pc` decode to an instruction, the step is that instruction's execution (D1). Byte `j` of them is the
memory at the translation of the linear address of CS:`pc + j` (R25, R54), and bytes are there as far as every one of the
sixteen at `pc` can be reached and belongs to the program. How a fetch is translated and what can be reached is the model's
choice (assumption log entry 16), that only the program is executed entry 17 (both DESIGN CHOICE). -/
def Obligations.StepRunsTheDecodedInstruction : Prop :=
  (∀ (s : State) (i : Instr) (rest : List Byte), decode s.ctx (fetchBytes s) = .ok (i, rest) → step s = exec i s) ∧
  ∀ (s : State) (la : Nat → Word),
    (∀ j, la j = if s.mode = .long64 then s.rip + BitVec.ofNat 64 j
      else BitVec.ofNat 64 ((s.seg.cs.base.toNat + s.rip.toNat % 2 ^ 32 + j) % 2 ^ 32)) →
    (∀ j b, (fetchBytes s)[j]? = some b →
      ∃ a, s.translate .read (decide (s.cpl = 3#2)) (la j) = .phys a ∧ b = s.mem.read a.toNat) ∧
    (∀ n ≤ 16, (∀ j < n,
        (∃ a, s.translate .read (decide (s.cpl = 3#2)) (la j) = .phys a ∧ inRegions s.devices a.toNat = false ∧
          inRegions s.program a.toNat = true) ∧
        (s.mode = .long64 → canonical s.impl.vaBits (la j) = true) ∧
        (s.mode ≠ .long64 → s.seg.cs.within (BitVec.ofNat 64 (s.rip.toNat % 2 ^ 32 + j)) 1 = true)) →
      n ≤ (fetchBytes s).length)

/-- Where decoding answers an error the step is refused, with no next state and no exception (D28): by the decoder's reason;
or, where the bytes run out, because the next one lies outside the program or cannot be reached. With `pc` outside the program
nothing is executed. An opcode byte outside the table is refused after any prefixes (R105). That bytes outside the program are
not executed is the model's choice (assumption log entry 17, DESIGN CHOICE), and so is the refusal of bytes that cannot be
reached (entry 16, DESIGN CHOICE): D16 refuses a store into the program, D22 leaves the fetch outside the spec. -/
def Obligations.OtherOpcodesRefused : Prop :=
  (∀ (s : State) (why : Reject), decode s.ctx (fetchBytes s) = .error why →
    (why ≠ .truncated → step s = .refused (.undecodable why)) ∧
    (why = .truncated →
      (∀ a, fetchPhys s (fetchBytes s).length = some a → step s = .refused .outsideProgram) ∧
      (fetchPhys s (fetchBytes s).length = none → step s = .refused .fetchUnavailable))) ∧
  (∀ (s : State) (a : Nat), fetchPhys s 0 = some a → inRegions s.program a = false → step s = .refused .outsideProgram) ∧
  ∀ (s : State) (p : Prefixes) (op : Byte) (bs : List Byte), p.wf s.ctx = true → fetchBytes s = p.bytes ++ op :: bs →
    isLegacyPrefix op = false → (s.mode = .long64 → isRexByte op = false) →
    op ∉ [0x88#8, 0x89#8, 0x8A#8, 0x8B#8, 0x8C#8, 0x8E#8, 0xA0#8, 0xA1#8, 0xA2#8, 0xA3#8, 0xC6#8, 0xC7#8] →
    (op < 0xB0#8 ∨ 0xBF#8 < op) → step s = .refused (.undecodable (.notMov op))

/-! ## Register forms -/

/-- Opcodes 88 and 8A without REX, register to register: the byte is copied and the other 56 bits are kept (R122, R127). -/
def Obligations.ByteRegisterMoves : Prop :=
  ∀ (p : Prefixes) (reg rm : BitVec 3) (s : State), p.lock = false → p.rex = none →
    (∃ t, exec (.movRm8R8 p reg (.reg rm)) s = .next t ∧
      t.getX (legacyByteReg rm) = withLegacyByte (s.getX (legacyByteReg rm)) rm (legacyByte s reg) ∧
      RegisterMove (.movRm8R8 p reg (.reg rm)) (legacyByteReg rm) s t) ∧
    (∃ t, exec (.movR8Rm8 p reg (.reg rm)) s = .next t ∧
      t.getX (legacyByteReg reg) = withLegacyByte (s.getX (legacyByteReg reg)) reg (legacyByte s rm) ∧
      RegisterMove (.movR8Rm8 p reg (.reg rm)) (legacyByteReg reg) s t)

/-- Opcodes 88 and 8A with REX, register to register: sixteen low bytes (R123, R128). -/
def Obligations.RexByteRegisterMoves : Prop :=
  ∀ (p : Prefixes) (x : Rex) (reg rm : BitVec 3) (s : State), p.lock = false → p.rex = some x →
    (∃ t, exec (.movRm8R8Rex p reg (.reg rm)) s = .next t ∧
      t.getX (BitVec.ofBool x.b ++ rm) = (s.getX (BitVec.ofBool x.b ++ rm)).extractLsb' 8 56 ++
        (s.getX (BitVec.ofBool x.r ++ reg)).extractLsb' 0 8 ∧
      RegisterMove (.movRm8R8Rex p reg (.reg rm)) (BitVec.ofBool x.b ++ rm) s t) ∧
    (∃ t, exec (.movR8Rm8Rex p reg (.reg rm)) s = .next t ∧
      t.getX (BitVec.ofBool x.r ++ reg) = (s.getX (BitVec.ofBool x.r ++ reg)).extractLsb' 8 56 ++
        (s.getX (BitVec.ofBool x.b ++ rm)).extractLsb' 0 8 ∧
      RegisterMove (.movR8Rm8Rex p reg (.reg rm)) (BitVec.ofBool x.r ++ reg) s t)

/-- Opcodes 89 and 8B at 16 bits, register to register: bits 63:16 are kept (R124, R129). -/
def Obligations.WordRegisterMoves : Prop :=
  ∀ (p : Prefixes) (reg rm : BitVec 3) (s : State), p.lock = false →
    (∃ t, exec (.movRm16R16 p reg (.reg rm)) s = .next t ∧
      t.getX (rmNum p rm) = (s.getX (rmNum p rm)).extractLsb' 16 48 ++ (s.getX (regNum p reg)).extractLsb' 0 16 ∧
      RegisterMove (.movRm16R16 p reg (.reg rm)) (rmNum p rm) s t) ∧
    (∃ t, exec (.movR16Rm16 p reg (.reg rm)) s = .next t ∧
      t.getX (regNum p reg) = (s.getX (regNum p reg)).extractLsb' 16 48 ++ (s.getX (rmNum p rm)).extractLsb' 0 16 ∧
      RegisterMove (.movR16Rm16 p reg (.reg rm)) (regNum p reg) s t)

/-- Opcodes 89 and 8B at 32 bits, register to register: the low half is copied; in `Long64` the high half is cleared,
elsewhere nothing is said of it (R125, R130, R23). -/
def Obligations.DoublewordRegisterMoves : Prop :=
  ∀ (p : Prefixes) (reg rm : BitVec 3) (s : State), p.lock = false →
    (∃ t, exec (.movRm32R32 p reg (.reg rm)) s = .next t ∧
      (t.getX (rmNum p rm)).extractLsb' 0 32 = (s.getX (regNum p reg)).extractLsb' 0 32 ∧
      (s.mode = .long64 → (t.getX (rmNum p rm)).extractLsb' 32 32 = 0#32) ∧
      RegisterMove (.movRm32R32 p reg (.reg rm)) (rmNum p rm) s t) ∧
    (∃ t, exec (.movR32Rm32 p reg (.reg rm)) s = .next t ∧
      (t.getX (regNum p reg)).extractLsb' 0 32 = (s.getX (rmNum p rm)).extractLsb' 0 32 ∧
      (s.mode = .long64 → (t.getX (regNum p reg)).extractLsb' 32 32 = 0#32) ∧
      RegisterMove (.movR32Rm32 p reg (.reg rm)) (regNum p reg) s t)

/-- Opcodes 89 and 8B at 64 bits, register to register (R126, R131). -/
def Obligations.QuadwordRegisterMoves : Prop :=
  ∀ (p : Prefixes) (reg rm : BitVec 3) (s : State), p.lock = false →
    (∃ t, exec (.movRm64R64 p reg (.reg rm)) s = .next t ∧ t.getX (rmNum p rm) = s.getX (regNum p reg) ∧
      RegisterMove (.movRm64R64 p reg (.reg rm)) (rmNum p rm) s t) ∧
    (∃ t, exec (.movR64Rm64 p reg (.reg rm)) s = .next t ∧ t.getX (regNum p reg) = s.getX (rmNum p rm) ∧
      RegisterMove (.movR64Rm64 p reg (.reg rm)) (regNum p reg) s t)

/-- An immediate byte to a register, opcodes B0 to B7 and C6 /0 with `mod = 11`, without and with REX (R191, R192, R196,
R197). -/
def Obligations.ImmediateByteToRegister : Prop :=
  (∀ (p : Prefixes) (r : BitVec 3) (imm : BitVec 8) (s : State), p.lock = false → p.rex = none →
    (∃ t, exec (.movR8Imm8 p r imm) s = .next t ∧
      t.getX (legacyByteReg r) = withLegacyByte (s.getX (legacyByteReg r)) r imm ∧
      RegisterMove (.movR8Imm8 p r imm) (legacyByteReg r) s t) ∧
    (∃ t, exec (.movRm8Imm8 p (.reg r) imm) s = .next t ∧
      t.getX (legacyByteReg r) = withLegacyByte (s.getX (legacyByteReg r)) r imm ∧
      RegisterMove (.movRm8Imm8 p (.reg r) imm) (legacyByteReg r) s t)) ∧
  (∀ (p : Prefixes) (x : Rex) (r : BitVec 3) (imm : BitVec 8) (s : State), p.lock = false → p.rex = some x →
    (∃ t, exec (.movR8Imm8Rex p r imm) s = .next t ∧
      t.getX (BitVec.ofBool x.b ++ r) = (s.getX (BitVec.ofBool x.b ++ r)).extractLsb' 8 56 ++ imm ∧
      RegisterMove (.movR8Imm8Rex p r imm) (BitVec.ofBool x.b ++ r) s t) ∧
    (∃ t, exec (.movRm8Imm8Rex p (.reg r) imm) s = .next t ∧
      t.getX (BitVec.ofBool x.b ++ r) = (s.getX (BitVec.ofBool x.b ++ r)).extractLsb' 8 56 ++ imm ∧
      RegisterMove (.movRm8Imm8Rex p (.reg r) imm) (BitVec.ofBool x.b ++ r) s t))

/-- An immediate word, doubleword or quadword to the register in the opcode, B8 to BF (R193, R194, R195). -/
def Obligations.ImmediateToOpcodeRegister : Prop :=
  (∀ (p : Prefixes) (r : BitVec 3) (imm : BitVec 16) (s : State), p.lock = false →
    ∃ t, exec (.movR16Imm16 p r imm) s = .next t ∧
      t.getX (rmNum p r) = (s.getX (rmNum p r)).extractLsb' 16 48 ++ imm ∧
      RegisterMove (.movR16Imm16 p r imm) (rmNum p r) s t) ∧
  (∀ (p : Prefixes) (r : BitVec 3) (imm : BitVec 32) (s : State), p.lock = false →
    ∃ t, exec (.movR32Imm32 p r imm) s = .next t ∧ (t.getX (rmNum p r)).extractLsb' 0 32 = imm ∧
      (s.mode = .long64 → (t.getX (rmNum p r)).extractLsb' 32 32 = 0#32) ∧
      RegisterMove (.movR32Imm32 p r imm) (rmNum p r) s t) ∧
  (∀ (p : Prefixes) (r : BitVec 3) (imm : BitVec 64) (s : State), p.lock = false →
    ∃ t, exec (.movR64Imm64 p r imm) s = .next t ∧ t.getX (rmNum p r) = imm ∧
      RegisterMove (.movR64Imm64 p r imm) (rmNum p r) s t)

/-- An immediate to a register with C7 /0 and `mod = 11`; the 64-bit form sign-extends its 32 bits (R198, R199, R200). -/
def Obligations.ImmediateToModRMRegister : Prop :=
  (∀ (p : Prefixes) (r : BitVec 3) (imm : BitVec 16) (s : State), p.lock = false →
    ∃ t, exec (.movRm16Imm16 p (.reg r) imm) s = .next t ∧
      t.getX (rmNum p r) = (s.getX (rmNum p r)).extractLsb' 16 48 ++ imm ∧
      RegisterMove (.movRm16Imm16 p (.reg r) imm) (rmNum p r) s t) ∧
  (∀ (p : Prefixes) (r : BitVec 3) (imm : BitVec 32) (s : State), p.lock = false →
    ∃ t, exec (.movRm32Imm32 p (.reg r) imm) s = .next t ∧ (t.getX (rmNum p r)).extractLsb' 0 32 = imm ∧
      (s.mode = .long64 → (t.getX (rmNum p r)).extractLsb' 32 32 = 0#32) ∧
      RegisterMove (.movRm32Imm32 p (.reg r) imm) (rmNum p r) s t) ∧
  (∀ (p : Prefixes) (r : BitVec 3) (imm : BitVec 32) (s : State), p.lock = false →
    ∃ t, exec (.movRm64Imm32 p (.reg r) imm) s = .next t ∧ (t.getX (rmNum p r)).toInt = imm.toInt ∧
      RegisterMove (.movRm64Imm32 p (.reg r) imm) (rmNum p r) s t)

/-! ## Memory forms -/

/-- Opcodes 88 and 89 to memory: where the operand's bytes resolve outside the program, the register is stored there, low
byte first, and nothing else changes (R122 to R126, R50, R120). -/
def Obligations.RegisterStores : Prop :=
  (∀ (p : Prefixes) (reg : BitVec 3) (m : MemRef) (s : State) (as : List Nat), p.lock = false → p.rex = none →
    dataAddrs s (memSeg s p m) (effAddr s p (Instr.movRm8R8 p reg (.mem m)).length m) 1 .write = .next as →
    as.any (inRegions s.program) = false →
    ∃ t, exec (.movRm8R8 p reg (.mem m)) s = .next t ∧ StoreMove (.movRm8R8 p reg (.mem m)) as s t ∧
      (s.mem.wf = true → as.Nodup → Stored t as ((legacyByte s reg).setWidth 64))) ∧
  (∀ (p : Prefixes) (x : Rex) (reg : BitVec 3) (m : MemRef) (s : State) (as : List Nat), p.lock = false →
    p.rex = some x →
    dataAddrs s (memSeg s p m) (effAddr s p (Instr.movRm8R8Rex p reg (.mem m)).length m) 1 .write = .next as →
    as.any (inRegions s.program) = false →
    ∃ t, exec (.movRm8R8Rex p reg (.mem m)) s = .next t ∧ StoreMove (.movRm8R8Rex p reg (.mem m)) as s t ∧
      (s.mem.wf = true → as.Nodup → Stored t as (s.getX (regNum p reg)))) ∧
  (∀ (p : Prefixes) (reg : BitVec 3) (m : MemRef) (s : State) (as : List Nat), p.lock = false →
    dataAddrs s (memSeg s p m) (effAddr s p (Instr.movRm16R16 p reg (.mem m)).length m) 2 .write = .next as →
    as.any (inRegions s.program) = false →
    ∃ t, exec (.movRm16R16 p reg (.mem m)) s = .next t ∧ StoreMove (.movRm16R16 p reg (.mem m)) as s t ∧
      (s.mem.wf = true → as.Nodup → Stored t as (s.getX (regNum p reg)))) ∧
  (∀ (p : Prefixes) (reg : BitVec 3) (m : MemRef) (s : State) (as : List Nat), p.lock = false →
    dataAddrs s (memSeg s p m) (effAddr s p (Instr.movRm32R32 p reg (.mem m)).length m) 4 .write = .next as →
    as.any (inRegions s.program) = false →
    ∃ t, exec (.movRm32R32 p reg (.mem m)) s = .next t ∧ StoreMove (.movRm32R32 p reg (.mem m)) as s t ∧
      (s.mem.wf = true → as.Nodup → Stored t as (s.getX (regNum p reg)))) ∧
  (∀ (p : Prefixes) (reg : BitVec 3) (m : MemRef) (s : State) (as : List Nat), p.lock = false →
    dataAddrs s (memSeg s p m) (effAddr s p (Instr.movRm64R64 p reg (.mem m)).length m) 8 .write = .next as →
    as.any (inRegions s.program) = false →
    ∃ t, exec (.movRm64R64 p reg (.mem m)) s = .next t ∧ StoreMove (.movRm64R64 p reg (.mem m)) as s t ∧
      (s.mem.wf = true → as.Nodup → Stored t as (s.getX (regNum p reg))))

/-- C6 /0 and C7 /0 to memory: the immediate is stored, the 64-bit form sign-extended (R196 to R200). -/
def Obligations.ImmediateStores : Prop :=
  (∀ (p : Prefixes) (m : MemRef) (imm : BitVec 8) (s : State) (as : List Nat), p.lock = false →
    dataAddrs s (memSeg s p m) (effAddr s p (Instr.movRm8Imm8 p (.mem m) imm).length m) 1 .write = .next as →
    as.any (inRegions s.program) = false →
    ∃ t, exec (.movRm8Imm8 p (.mem m) imm) s = .next t ∧ StoreMove (.movRm8Imm8 p (.mem m) imm) as s t ∧
      (s.mem.wf = true → as.Nodup → Stored t as (imm.setWidth 64))) ∧
  (∀ (p : Prefixes) (m : MemRef) (imm : BitVec 8) (s : State) (as : List Nat), p.lock = false →
    dataAddrs s (memSeg s p m) (effAddr s p (Instr.movRm8Imm8Rex p (.mem m) imm).length m) 1 .write = .next as →
    as.any (inRegions s.program) = false →
    ∃ t, exec (.movRm8Imm8Rex p (.mem m) imm) s = .next t ∧ StoreMove (.movRm8Imm8Rex p (.mem m) imm) as s t ∧
      (s.mem.wf = true → as.Nodup → Stored t as (imm.setWidth 64))) ∧
  (∀ (p : Prefixes) (m : MemRef) (imm : BitVec 16) (s : State) (as : List Nat), p.lock = false →
    dataAddrs s (memSeg s p m) (effAddr s p (Instr.movRm16Imm16 p (.mem m) imm).length m) 2 .write = .next as →
    as.any (inRegions s.program) = false →
    ∃ t, exec (.movRm16Imm16 p (.mem m) imm) s = .next t ∧ StoreMove (.movRm16Imm16 p (.mem m) imm) as s t ∧
      (s.mem.wf = true → as.Nodup → Stored t as (imm.setWidth 64))) ∧
  (∀ (p : Prefixes) (m : MemRef) (imm : BitVec 32) (s : State) (as : List Nat), p.lock = false →
    dataAddrs s (memSeg s p m) (effAddr s p (Instr.movRm32Imm32 p (.mem m) imm).length m) 4 .write = .next as →
    as.any (inRegions s.program) = false →
    ∃ t, exec (.movRm32Imm32 p (.mem m) imm) s = .next t ∧ StoreMove (.movRm32Imm32 p (.mem m) imm) as s t ∧
      (s.mem.wf = true → as.Nodup → Stored t as (imm.setWidth 64))) ∧
  (∀ (p : Prefixes) (m : MemRef) (imm : BitVec 32) (s : State) (as : List Nat), p.lock = false →
    dataAddrs s (memSeg s p m) (effAddr s p (Instr.movRm64Imm32 p (.mem m) imm).length m) 8 .write = .next as →
    as.any (inRegions s.program) = false →
    ∃ t, exec (.movRm64Imm32 p (.mem m) imm) s = .next t ∧ StoreMove (.movRm64Imm32 p (.mem m) imm) as s t ∧
      (s.mem.wf = true → as.Nodup → Stored t as (imm.signExtend 64)))

/-- A2 and A3: the accumulator is stored at the offset, which is zero-extended (R97, R170, R176 to R180). -/
def Obligations.AccumulatorStores : Prop :=
  (∀ o, (moffsValue (.off16 o)).toNat = o.toNat) ∧ (∀ o, (moffsValue (.off32 o)).toNat = o.toNat) ∧
  (∀ o, moffsValue (.off64 o) = o) ∧
  ∀ (p : Prefixes) (m : Moffs) (s : State) (as : List Nat), p.lock = false → as.any (inRegions s.program) = false →
    (dataAddrs s (moffsSeg s p) (moffsValue m) 1 .write = .next as →
      (∃ t, exec (.movMoffs8Al p m) s = .next t ∧ StoreMove (.movMoffs8Al p m) as s t ∧
        (s.mem.wf = true → as.Nodup → Stored t as (s.getX 0))) ∧
      (∃ t, exec (.movMoffs8AlRexW p m) s = .next t ∧ StoreMove (.movMoffs8AlRexW p m) as s t ∧
        (s.mem.wf = true → as.Nodup → Stored t as (s.getX 0)))) ∧
    (dataAddrs s (moffsSeg s p) (moffsValue m) 2 .write = .next as →
      ∃ t, exec (.movMoffs16Ax p m) s = .next t ∧ StoreMove (.movMoffs16Ax p m) as s t ∧
        (s.mem.wf = true → as.Nodup → Stored t as (s.getX 0))) ∧
    (dataAddrs s (moffsSeg s p) (moffsValue m) 4 .write = .next as →
      ∃ t, exec (.movMoffs32Eax p m) s = .next t ∧ StoreMove (.movMoffs32Eax p m) as s t ∧
        (s.mem.wf = true → as.Nodup → Stored t as (s.getX 0))) ∧
    (dataAddrs s (moffsSeg s p) (moffsValue m) 8 .write = .next as →
      ∃ t, exec (.movMoffs64Rax p m) s = .next t ∧ StoreMove (.movMoffs64Rax p m) as s t ∧
        (s.mem.wf = true → as.Nodup → Stored t as (s.getX 0)))

/-- Opcodes 8A and 8B from memory: where the operand's bytes resolve, they become the register's low bytes, the first the
lowest, and the rest of the register is as R23 says (R127 to R131, R50). The address is computed from the registers as they
were, the destination included (R120). -/
def Obligations.RegisterLoads : Prop :=
  (∀ (p : Prefixes) (reg : BitVec 3) (m : MemRef) (s : State) (a : Nat), p.lock = false → p.rex = none →
    dataAddrs s (memSeg s p m) (effAddr s p (Instr.movR8Rm8 p reg (.mem m)).length m) 1 .read = .next [a] →
    ∃ t, exec (.movR8Rm8 p reg (.mem m)) s = .next t ∧
      t.getX (legacyByteReg reg) = withLegacyByte (s.getX (legacyByteReg reg)) reg (s.mem.read a) ∧
      RegisterMove (.movR8Rm8 p reg (.mem m)) (legacyByteReg reg) s t) ∧
  (∀ (p : Prefixes) (x : Rex) (reg : BitVec 3) (m : MemRef) (s : State) (a : Nat), p.lock = false → p.rex = some x →
    dataAddrs s (memSeg s p m) (effAddr s p (Instr.movR8Rm8Rex p reg (.mem m)).length m) 1 .read = .next [a] →
    ∃ t, exec (.movR8Rm8Rex p reg (.mem m)) s = .next t ∧
      t.getX (regNum p reg) = (s.getX (regNum p reg)).extractLsb' 8 56 ++ s.mem.read a ∧
      RegisterMove (.movR8Rm8Rex p reg (.mem m)) (regNum p reg) s t) ∧
  (∀ (p : Prefixes) (reg : BitVec 3) (m : MemRef) (s : State) (a b : Nat), p.lock = false →
    dataAddrs s (memSeg s p m) (effAddr s p (Instr.movR16Rm16 p reg (.mem m)).length m) 2 .read = .next [a, b] →
    ∃ t, exec (.movR16Rm16 p reg (.mem m)) s = .next t ∧
      t.getX (regNum p reg) = (s.getX (regNum p reg)).extractLsb' 16 48 ++ s.mem.read b ++ s.mem.read a ∧
      RegisterMove (.movR16Rm16 p reg (.mem m)) (regNum p reg) s t) ∧
  (∀ (p : Prefixes) (reg : BitVec 3) (m : MemRef) (s : State) (a b c d : Nat), p.lock = false →
    dataAddrs s (memSeg s p m) (effAddr s p (Instr.movR32Rm32 p reg (.mem m)).length m) 4 .read = .next [a, b, c, d] →
    ∃ t, exec (.movR32Rm32 p reg (.mem m)) s = .next t ∧
      (t.getX (regNum p reg)).extractLsb' 0 32 = s.mem.read d ++ s.mem.read c ++ s.mem.read b ++ s.mem.read a ∧
      (s.mode = .long64 → (t.getX (regNum p reg)).extractLsb' 32 32 = 0#32) ∧
      RegisterMove (.movR32Rm32 p reg (.mem m)) (regNum p reg) s t) ∧
  (∀ (p : Prefixes) (reg : BitVec 3) (m : MemRef) (s : State) (a b c d e f g h : Nat), p.lock = false →
    dataAddrs s (memSeg s p m) (effAddr s p (Instr.movR64Rm64 p reg (.mem m)).length m) 8 .read =
      .next [a, b, c, d, e, f, g, h] →
    ∃ t, exec (.movR64Rm64 p reg (.mem m)) s = .next t ∧
      t.getX (regNum p reg) = s.mem.read h ++ s.mem.read g ++ s.mem.read f ++ s.mem.read e ++
        s.mem.read d ++ s.mem.read c ++ s.mem.read b ++ s.mem.read a ∧
      RegisterMove (.movR64Rm64 p reg (.mem m)) (regNum p reg) s t)

/-- A0 and A1: the bytes at the offset, which is zero-extended, become the accumulator's low bytes (R97, R170, R171 to R175). -/
def Obligations.AccumulatorLoads : Prop :=
  ((∀ o, (moffsValue (.off16 o)).toNat = o.toNat) ∧ (∀ o, (moffsValue (.off32 o)).toNat = o.toNat) ∧
    ∀ o, moffsValue (.off64 o) = o) ∧
  (∀ (p : Prefixes) (m : Moffs) (s : State) (a : Nat), p.lock = false →
    dataAddrs s (moffsSeg s p) (moffsValue m) 1 .read = .next [a] →
    (∃ t, exec (.movAlMoffs8 p m) s = .next t ∧ t.getX 0 = (s.getX 0).extractLsb' 8 56 ++ s.mem.read a ∧
      RegisterMove (.movAlMoffs8 p m) 0 s t) ∧
    (∃ t, exec (.movAlMoffs8RexW p m) s = .next t ∧ t.getX 0 = (s.getX 0).extractLsb' 8 56 ++ s.mem.read a ∧
      RegisterMove (.movAlMoffs8RexW p m) 0 s t)) ∧
  (∀ (p : Prefixes) (m : Moffs) (s : State) (a b : Nat), p.lock = false →
    dataAddrs s (moffsSeg s p) (moffsValue m) 2 .read = .next [a, b] →
    ∃ t, exec (.movAxMoffs16 p m) s = .next t ∧
      t.getX 0 = (s.getX 0).extractLsb' 16 48 ++ s.mem.read b ++ s.mem.read a ∧
      RegisterMove (.movAxMoffs16 p m) 0 s t) ∧
  (∀ (p : Prefixes) (m : Moffs) (s : State) (a b c d : Nat), p.lock = false →
    dataAddrs s (moffsSeg s p) (moffsValue m) 4 .read = .next [a, b, c, d] →
    ∃ t, exec (.movEaxMoffs32 p m) s = .next t ∧
      (t.getX 0).extractLsb' 0 32 = s.mem.read d ++ s.mem.read c ++ s.mem.read b ++ s.mem.read a ∧
      (s.mode = .long64 → (t.getX 0).extractLsb' 32 32 = 0#32) ∧ RegisterMove (.movEaxMoffs32 p m) 0 s t) ∧
  (∀ (p : Prefixes) (m : Moffs) (s : State) (a b c d e f g h : Nat), p.lock = false →
    dataAddrs s (moffsSeg s p) (moffsValue m) 8 .read = .next [a, b, c, d, e, f, g, h] →
    ∃ t, exec (.movRaxMoffs64 p m) s = .next t ∧
      t.getX 0 = s.mem.read h ++ s.mem.read g ++ s.mem.read f ++ s.mem.read e ++
        s.mem.read d ++ s.mem.read c ++ s.mem.read b ++ s.mem.read a ∧ RegisterMove (.movRaxMoffs64 p m) 0 s t)

/-- A memory operand whose access faults or is refused stops the MOV with the same fault or the same refusal, for every form
with a memory operand (R121, R140 to R143, R170, R190, R223). -/
def Obligations.OperandFaultsStopTheMove : Prop :=
  ∀ (p : Prefixes) (reg : BitVec 3) (k : SReg) (m : MemRef) (o : Moffs) (imm8 : BitVec 8) (imm16 : BitVec 16)
    (imm32 : BitVec 32) (s : State), p.lock = false →
    (∀ i n kind, (i, n, kind) ∈ [(Instr.movRm8R8 p reg (.mem m), 1, AccessKind.write),
        (.movRm8R8Rex p reg (.mem m), 1, .write), (.movRm16R16 p reg (.mem m), 2, .write),
        (.movRm32R32 p reg (.mem m), 4, .write), (.movRm64R64 p reg (.mem m), 8, .write),
        (.movRm8Imm8 p (.mem m) imm8, 1, .write), (.movRm8Imm8Rex p (.mem m) imm8, 1, .write),
        (.movRm16Imm16 p (.mem m) imm16, 2, .write), (.movRm32Imm32 p (.mem m) imm32, 4, .write),
        (.movRm64Imm32 p (.mem m) imm32, 8, .write), (.movR8Rm8 p reg (.mem m), 1, .read),
        (.movR8Rm8Rex p reg (.mem m), 1, .read), (.movR16Rm16 p reg (.mem m), 2, .read),
        (.movR32Rm32 p reg (.mem m), 4, .read), (.movR64Rm64 p reg (.mem m), 8, .read)] →
      (∀ f, dataAddrs s (memSeg s p m) (effAddr s p i.length m) n kind = .fault f → exec i s = .fault f) ∧
      (∀ f, dataAddrs s (memSeg s p m) (effAddr s p i.length m) n kind = .refused f → exec i s = .refused f)) ∧
    (∀ i n kind, (i, n, kind) ∈ [(Instr.movAlMoffs8 p o, 1, AccessKind.read), (.movAlMoffs8RexW p o, 1, .read),
        (.movAxMoffs16 p o, 2, .read), (.movEaxMoffs32 p o, 4, .read), (.movRaxMoffs64 p o, 8, .read),
        (.movMoffs8Al p o, 1, .write), (.movMoffs8AlRexW p o, 1, .write), (.movMoffs16Ax p o, 2, .write),
        (.movMoffs32Eax p o, 4, .write), (.movMoffs64Rax p o, 8, .write)] →
      (∀ f, dataAddrs s (moffsSeg s p) (moffsValue o) n kind = .fault f → exec i s = .fault f) ∧
      (∀ f, dataAddrs s (moffsSeg s p) (moffsValue o) n kind = .refused f → exec i s = .refused f)) ∧
    (p.r = false → sregOfField reg = some k →
      ∀ i n kind, (i, n, kind) ∈ [(Instr.movRm16Sreg p reg (.mem m), sregMemBytes s (opSize s.ctx p), AccessKind.write),
        (.movRm64Sreg p reg (.mem m), sregMemBytes s .o64, .write)] ∨
        (k ≠ .cs ∧ (i, n, kind) ∈ [(Instr.movSregRm16 p reg (.mem m), sregMemBytes s (opSize s.ctx p), AccessKind.read),
          (.movSregRm64 p reg (.mem m), sregMemBytes s .o64, .read)]) →
      (∀ f, dataAddrs s (memSeg s p m) (effAddr s p i.length m) n kind = .fault f → exec i s = .fault f) ∧
      (∀ f, dataAddrs s (memSeg s p m) (effAddr s p i.length m) n kind = .refused f → exec i s = .refused f))

/-- A store whose bytes resolve is refused when one of them belongs to the program, for every storing form (R70). -/
def Obligations.StoresIntoTheProgramRefused : Prop :=
  ∀ (p : Prefixes) (reg : BitVec 3) (k : SReg) (m : MemRef) (o : Moffs) (imm8 : BitVec 8) (imm16 : BitVec 16)
    (imm32 : BitVec 32) (s : State) (as : List Nat), p.lock = false → as.any (inRegions s.program) = true →
    (∀ i n, (i, n) ∈ [(Instr.movRm8R8 p reg (.mem m), 1), (Instr.movRm8R8Rex p reg (.mem m), 1),
        (Instr.movRm16R16 p reg (.mem m), 2), (Instr.movRm32R32 p reg (.mem m), 4), (Instr.movRm64R64 p reg (.mem m), 8),
        (Instr.movRm8Imm8 p (.mem m) imm8, 1), (Instr.movRm8Imm8Rex p (.mem m) imm8, 1),
        (Instr.movRm16Imm16 p (.mem m) imm16, 2), (Instr.movRm32Imm32 p (.mem m) imm32, 4),
        (Instr.movRm64Imm32 p (.mem m) imm32, 8)] →
      dataAddrs s (memSeg s p m) (effAddr s p i.length m) n .write = .next as → exec i s = .refused .programStore) ∧
    (∀ i n, (i, n) ∈ [(Instr.movMoffs8Al p o, 1), (Instr.movMoffs8AlRexW p o, 1), (Instr.movMoffs16Ax p o, 2),
        (Instr.movMoffs32Eax p o, 4), (Instr.movMoffs64Rax p o, 8)] →
      dataAddrs s (moffsSeg s p) (moffsValue o) n .write = .next as → exec i s = .refused .programStore) ∧
    (p.r = false → sregOfField reg = some k →
      ∀ i n, (i, n) ∈ [(Instr.movRm16Sreg p reg (.mem m), sregMemBytes s (opSize s.ctx p)),
        (Instr.movRm64Sreg p reg (.mem m), sregMemBytes s .o64)] →
      dataAddrs s (memSeg s p m) (effAddr s p i.length m) n .write = .next as → exec i s = .refused .programStore)

/-! ## Addresses and the checks of an access -/

/-- With paging off, and in `Real`, an access that passes the segment, canonical and alignment checks resolves to its linear
addresses, byte by byte, and is refused when one of them belongs to a device (R51, R52, R53, R54, R62, R65). -/
def Obligations.UncheckedAccessResolves : Prop :=
  ∀ (s : State) (k : SReg) (off : Word) (n : Nat) (kind : AccessKind) (as : List Nat),
    (s.mode = .real ∨ s.pagingOn = false) →
    (s.mode = .prot ∨ s.mode = .compat →
      (k = .ss ∨ k = .cs ∨ (s.sreg k).usable = true) ∧
      (kind = .write → (s.sreg k).attr.writable = true) ∧ (kind = .read → (s.sreg k).attr.executeOnly = false)) →
    (s.mode ≠ .long64 →
      ((s.sreg k).attr.expandDown = false ∧ off.toNat + n ≤ (s.sreg k).limit.toNat + 1) ∨
      ((s.sreg k).attr.expandDown = true ∧ (s.sreg k).limit.toNat < off.toNat ∧
        off.toNat + n ≤ (if (s.sreg k).attr.db = true then 2 ^ 32 else 2 ^ 16))) →
    (s.mode = .long64 → ∀ j < n, canonical s.impl.vaBits (linearAddr s k off + BitVec.ofNat 64 j) = true) →
    (s.acOn = false ∨ s.cpl ≠ 3#2 ∨ s.mode = .real ∨ (linearAddr s k off).toNat % n = 0) →
    as = ((List.range n).map fun j =>
      if s.mode = .long64 then (linearAddr s k off + BitVec.ofNat 64 j).toNat
      else ((s.sreg k).base.toNat + off.toNat + j) % 2 ^ 32) →
    ((∀ a ∈ as, inRegions s.devices a = false) → dataAddrs s k off n kind = .next as) ∧
    ((∃ a ∈ as, inRegions s.devices a = true) → dataAddrs s k off n kind = .refused .deviceAccess)

/-- Where an access passes the segment, canonical and alignment checks, the translations of its bytes decide: a page fault of
one of them is the outcome, with its code and linear address, or every byte has its physical address, in order, and the
access is refused if one of these belongs to a device (R62, R64, R65, R217). -/
def Obligations.TranslationDecidesTheAccess : Prop :=
  ∀ (s : State) (k : SReg) (off : Word) (n : Nat) (kind : AccessKind), segFault s k off n kind = none →
    canonicalFault s k (byteAddrs s.wideLinear (linearAddr s k off) n) = none →
    (s.acOn = false ∨ s.cpl ≠ 3#2 ∨ s.mode = .real ∨ (linearAddr s k off).toNat % n = 0) →
    (∃ la ∈ byteAddrs s.wideLinear (linearAddr s k off) n, ∃ code,
      s.translate kind (decide (s.cpl = 3#2)) la = .pageFault code ∧ dataAddrs s k off n kind = .fault (.pf code la)) ∨
    (∃ ps : List Word, ps.length = n ∧
      (byteAddrs s.wideLinear (linearAddr s k off) n).map (s.translate kind (decide (s.cpl = 3#2))) = ps.map .phys ∧
      ((∃ a ∈ ps, inRegions s.devices a.toNat = true) → dataAddrs s k off n kind = .refused .deviceAccess) ∧
      ((∀ a ∈ ps, inRegions s.devices a.toNat = false) → dataAddrs s k off n kind = .next (ps.map BitVec.toNat)))

/-- The linear address of an offset: base plus offset in 32 bits outside `Long64`; in it the offset itself, to which only FS
and GS add their base, in 64 bits (R54). -/
def Obligations.LinearAddressOfAnOffset : Prop :=
  ∀ (s : State) (k : SReg) (off : Word),
    (s.mode ≠ .long64 → (linearAddr s k off).toNat = ((s.sreg k).base.toNat + off.toNat) % 2 ^ 32) ∧
    (s.mode = .long64 → k ≠ .fs → k ≠ .gs → linearAddr s k off = off) ∧
    (s.mode = .long64 → (k = .fs ∨ k = .gs) → linearAddr s k off = (s.sreg k).base + off)

/-- The segment checks of `Prot` and `Compat` before the limit, each `#GP(0)`: any reference through a DS, ES, FS or GS that
holds a NULL selector, a store through a segment that is not a writable data segment, and a load through a code segment that
is not readable (R32, R53, R212). -/
def Obligations.SegmentChecksOfProtAndCompat : Prop :=
  ∀ (s : State) (k : SReg) (off : Word) (n : Nat), (s.mode = .prot ∨ s.mode = .compat) →
    (∀ kind, k ≠ .ss → k ≠ .cs → (s.sreg k).usable = false → dataAddrs s k off n kind = .fault (.gp .zero)) ∧
    ((s.sreg k).attr.type.getLsbD 3 = true ∨ (s.sreg k).attr.type.getLsbD 1 = false →
      dataAddrs s k off n .write = .fault (.gp .zero)) ∧
    ((s.sreg k).attr.type.getLsbD 3 = true → (s.sreg k).attr.type.getLsbD 1 = false →
      dataAddrs s k off n .read = .fault (.gp .zero))

/-- Outside `Long64` an access that is not wholly within the limit, through a register that passes the other checks, is `#SS`
through SS and `#GP` through any other register, with no error code in `Real` and code 0 elsewhere: beyond the limit of an
expand-up segment, or at or below the limit or beyond the upper bound of an expand-down one (R53, R57, R214). -/
def Obligations.LimitViolationFaults : Prop :=
  ∀ (s : State) (k : SReg) (off : Word) (n : Nat) (kind : AccessKind), s.mode ≠ .long64 →
    (s.mode = .prot ∨ s.mode = .compat →
      (k = .ss ∨ k = .cs ∨ (s.sreg k).usable = true) ∧
      (kind = .write → (s.sreg k).attr.writable = true) ∧ (kind = .read → (s.sreg k).attr.executeOnly = false)) →
    (((s.sreg k).attr.expandDown = false ∧ (s.sreg k).limit.toNat + 1 < off.toNat + n) ∨
      ((s.sreg k).attr.expandDown = true ∧ (off.toNat ≤ (s.sreg k).limit.toNat ∨
        (if (s.sreg k).attr.db = true then 2 ^ 32 else 2 ^ 16) < off.toNat + n))) →
    dataAddrs s k off n kind =
      .fault (if k = .ss then .ss (if s.mode = .real then .absent else .zero)
        else .gp (if s.mode = .real then .absent else .zero))

/-- An address is canonical when its bits from 63 down to `VA_BITS - 1` are all equal. In `Long64` an access with a byte at a
non-canonical address is `#SS(0)` through SS and `#GP(0)` otherwise, whatever the hidden parts of the segment registers
hold (R56). -/
def Obligations.NonCanonicalAccessFaults : Prop :=
  (∀ a : Word, (canonical .va48 a = true ↔ ∀ b, 47 ≤ b → b < 64 → a.getLsbD b = a.getLsbD 63) ∧
    (canonical .va57 a = true ↔ ∀ b, 56 ≤ b → b < 64 → a.getLsbD b = a.getLsbD 63)) ∧
  ∀ (s : State) (k : SReg) (off : Word) (n j : Nat) (kind : AccessKind), s.mode = .long64 → j < n →
    canonical s.impl.vaBits (linearAddr s k off + BitVec.ofNat 64 j) = false →
    dataAddrs s k off n kind = .fault (if k = .ss then .ss .zero else .gp .zero)

/-- An unaligned access that passes the segment and canonical checks, with alignment checking enabled at CPL 3, faults in
every mode but `Real`: with `#AC(0)`, or with a page fault of the same access, which R222 leaves unordered with it (R59). -/
def Obligations.UnalignedAccessFaults : Prop :=
  ∀ (s : State) (k : SReg) (off : Word) (n : Nat) (kind : AccessKind), s.mode ≠ .real → s.acOn = true → s.cpl = 3#2 →
    (linearAddr s k off).toNat % n ≠ 0 → segFault s k off n kind = none →
    canonicalFault s k (byteAddrs s.wideLinear (linearAddr s k off) n) = none →
    dataAddrs s k off n kind = .fault .ac ∨
      (s.pagingOn = true ∧ ∃ code la, dataAddrs s k off n kind = .fault (.pf code la))

/-- The effective address is within the address size (R94), and with the 16-bit table it is the sum of R89 modulo `2^16`, for
every row and every displacement; without registers it is the displacement. -/
def Obligations.EffectiveAddressIsTruncated : Prop :=
  ∀ (s : State) (p : Prefixes) (len : Nat),
    (∀ m, adSize s.ctx p = .a16 → (effAddr s p len m).toNat < 2 ^ 16) ∧
    (∀ m, adSize s.ctx p = .a32 → (effAddr s p len m).toNat < 2 ^ 32) ∧
    (∀ b n, (b, n) ∈ [(Base16.bxSi, lowWord s 3 + lowWord s 6), (.bxDi, lowWord s 3 + lowWord s 7),
        (.bpSi, lowWord s 5 + lowWord s 6), (.bpDi, lowWord s 5 + lowWord s 7), (.si, lowWord s 6), (.di, lowWord s 7),
        (.bp, lowWord s 5), (.bx, lowWord s 3)] →
      ∀ d, ((effAddr s p len (.based16 b d)).toNat : Int) = ((n : Int) + dispInt d) % 2 ^ 16) ∧
    ∀ d, (effAddr s p len (.abs16 d)).toNat = d.toNat

/-- The effective address with a 32- or 64-bit address size, the sum modulo `2^32` or `2^64` of a base register, an index
register times `2^scale` and the sign-extended displacement, registers read at the address size; index number 4 is no index,
and a SIB form without base and, outside `Long64`, a `disp32` alone have no base register (R90, R91, R92, R94). -/
def Obligations.AddressesOf32And64Bits : Prop :=
  ∀ (s : State) (p : Prefixes) (len M : Nat) (reg : BitVec 4 → Int) (index : BitVec 2 → BitVec 3 → Int),
    (adSize s.ctx p = .a32 ∧ M = 2 ^ 32) ∨ (adSize s.ctx p = .a64 ∧ M = 2 ^ 64) →
    (∀ i, reg i = (((s.getX i).toNat % M : Nat) : Int)) →
    (∀ sc i, index sc i = if p.x = false ∧ i = 4#3 then 0 else reg (BitVec.ofBool p.x ++ i) * 2 ^ sc.toNat) →
    (∀ rm d, ((effAddr s p len (.based rm d)).toNat : Int) = (reg (BitVec.ofBool p.b ++ rm) + dispInt d) % M) ∧
    (∀ sc i b d, ((effAddr s p len (.sib sc i b d)).toNat : Int) =
      (reg (BitVec.ofBool p.b ++ b) + index sc i + dispInt d) % M) ∧
    (∀ sc i d, ((effAddr s p len (.sibAbs sc i d)).toNat : Int) = (index sc i + d.toInt) % M) ∧
    (s.mode ≠ .long64 → ∀ d, ((effAddr s p len (.disp32 d)).toNat : Int) = d.toInt % M)

/-- The segment of a memory operand: without an override DS, or SS for the rows of the 16-bit table with BP and for a base
register numbered 5, or 4 in a SIB form; an override names the segment, but in `Long64` those of ES, CS, SS and DS are
ignored; the six prefix bytes name the six registers (R89, R90, R91, R95, R97). -/
def Obligations.SegmentOfAMemoryOperand : Prop :=
  (∀ (s : State) (p : Prefixes), p.seg = none →
    (∀ b d, memSeg s p (.based16 b d) = if b = .bpSi ∨ b = .bpDi ∨ b = .bp then .ss else .ds) ∧
    (∀ d, memSeg s p (.abs16 d) = .ds) ∧
    (∀ rm d, memSeg s p (.based rm d) = if BitVec.ofBool p.b ++ rm = 5#4 then .ss else .ds) ∧
    (∀ d, memSeg s p (.disp32 d) = .ds) ∧
    (∀ sc i b d, memSeg s p (.sib sc i b d) =
      if BitVec.ofBool p.b ++ b = 4#4 ∨ BitVec.ofBool p.b ++ b = 5#4 then .ss else .ds) ∧
    (∀ sc i d, memSeg s p (.sibAbs sc i d) = .ds) ∧ moffsSeg s p = .ds) ∧
  (∀ (s : State) (p : Prefixes) (k : SReg) (m : MemRef), p.seg = some k →
    (s.mode ≠ .long64 ∨ k = .fs ∨ k = .gs → memSeg s p m = k ∧ moffsSeg s p = k) ∧
    (s.mode = .long64 → k ≠ .fs → k ≠ .gs → memSeg s p m = memSeg s { p with seg := none } m ∧ moffsSeg s p = .ds)) ∧
  ∀ b k, (b, k) ∈ [(0x26#8, SReg.es), (0x2E#8, .cs), (0x36#8, .ss), (0x3E#8, .ds), (0x64#8, .fs), (0x65#8, .gs)] →
    ∀ c ∈ [Ctx.mk .prot true, Ctx.mk .long64 false], decode c [b, 0x8B, 0x03] =
      .ok (.movR32Rm32 ⟨false, some k, false, false, none⟩ 0 (.mem (.based 3 .none)), [])

/-- RIP-relative addressing in `Long64`: the address after the instruction plus the sign-extended displacement, in 64 bits
without a 67H prefix and reduced to 32 bits with one (R93, R94). -/
def Obligations.RipRelativeAddress : Prop :=
  ∀ (s : State) (p : Prefixes) (len : Nat) (d : BitVec 32), s.mode = .long64 →
    (p.adsz = false → (effAddr s p len (.disp32 d)).toNat = ((s.rip.toNat + len + d.toInt) % 2 ^ 64).toNat) ∧
    (p.adsz = true → (effAddr s p len (.disp32 d)).toNat = ((s.rip.toNat + len + d.toInt) % 2 ^ 32).toNat) ∧
    defaultSeg p (.disp32 d) = .ds

/-! ## Segment-register stores -/

/-- 8C to a register: the selector in bits 15:0; at 16 bits the rest is kept, at 32 bits bits 31:16 are 0 when `SREG_HI16` is
`zero`, at 64 bits the rest is 0; every one of the six registers can be read, by its number (R27, R140, R141, R144, R146). -/
def Obligations.SelectorToRegister : Prop :=
  (∀ n k, (n, k) ∈ [(0#3, some SReg.es), (1#3, some .cs), (2#3, some .ss), (3#3, some .ds), (4#3, some .fs),
      (5#3, some .gs), (6#3, none), (7#3, none)] → sregOfField n = k) ∧
  ∀ (p : Prefixes) (reg rm : BitVec 3) (k : SReg) (s : State), p.lock = false → p.r = false →
    sregOfField reg = some k →
    (∃ t, exec (.movRm16Sreg p reg (.reg rm)) s = .next t ∧
      (t.getX (rmNum p rm)).extractLsb' 0 16 = (s.sreg k).sel ∧
      (opSize s.ctx p = .o16 →
        (t.getX (rmNum p rm)).extractLsb' 16 48 = (s.getX (rmNum p rm)).extractLsb' 16 48) ∧
      (opSize s.ctx p = .o32 → s.impl.sregHi16 = .zero → (t.getX (rmNum p rm)).extractLsb' 16 16 = 0#16) ∧
      (opSize s.ctx p = .o32 → s.mode = .long64 → (t.getX (rmNum p rm)).extractLsb' 32 32 = 0#32) ∧
      RegisterMove (.movRm16Sreg p reg (.reg rm)) (rmNum p rm) s t) ∧
    (∃ t, exec (.movRm64Sreg p reg (.reg rm)) s = .next t ∧
      t.getX (rmNum p rm) = (s.sreg k).sel.setWidth 64 ∧
      RegisterMove (.movRm64Sreg p reg (.reg rm)) (rmNum p rm) s t)

/-- 8C to memory: the selector, zero-extended to `SREG_MEM_BYTES`, is stored where the operand resolves; `SREG_MEM_BYTES` is 2
at a 16-bit operand size, and at 32 and 64 bits either 2 or the operand size in bytes (R140, R141, R147). -/
def Obligations.SelectorToMemory : Prop :=
  (∀ s : State, sregMemBytes s .o16 = 2 ∧
    (s.impl.sregMemBytes = .two → sregMemBytes s .o32 = 2 ∧ sregMemBytes s .o64 = 2) ∧
    (s.impl.sregMemBytes = .operandSize → sregMemBytes s .o32 = 4 ∧ sregMemBytes s .o64 = 8)) ∧
  ∀ (p : Prefixes) (reg : BitVec 3) (m : MemRef) (k : SReg) (s : State) (as : List Nat), p.lock = false → p.r = false →
    sregOfField reg = some k → as.any (inRegions s.program) = false →
    (dataAddrs s (memSeg s p m) (effAddr s p (Instr.movRm16Sreg p reg (.mem m)).length m)
        (sregMemBytes s (opSize s.ctx p)) .write = .next as →
      ∃ t, exec (.movRm16Sreg p reg (.mem m)) s = .next t ∧ StoreMove (.movRm16Sreg p reg (.mem m)) as s t ∧
        (s.mem.wf = true → as.Nodup → Stored t as ((s.sreg k).sel.setWidth 64))) ∧
    (dataAddrs s (memSeg s p m) (effAddr s p (Instr.movRm64Sreg p reg (.mem m)).length m)
        (sregMemBytes s .o64) .write = .next as →
      ∃ t, exec (.movRm64Sreg p reg (.mem m)) s = .next t ∧ StoreMove (.movRm64Sreg p reg (.mem m)) as s t ∧
        (s.mem.wf = true → as.Nodup → Stored t as ((s.sreg k).sel.setWidth 64)))

/-! ## Segment-register loads -/

/-- 8E in `Real` and `V86`: any selector loads, the base is sixteen times the selector, nothing is read from a descriptor
table and nothing is written to memory (R142, R143, R149). -/
def Obligations.SegmentLoadWithoutChecks : Prop :=
  ∀ (p : Prefixes) (reg : BitVec 3) (rm : RM) (k : SReg) (sel : BitVec 16) (s : State), p.lock = false → p.r = false →
    sregOfField reg = some k → k ≠ .cs → (s.mode = .real ∨ s.mode = .v86) →
    (∀ i o, (i = Instr.movSregRm16 p reg rm ∧ o = opSize s.ctx p) ∨ (i = Instr.movSregRm64 p reg rm ∧ o = .o64) →
      readSel s p i.length o rm = .next sel →
      ∃ t, exec i s = .next t ∧ (t.sreg k).sel = sel ∧ (t.sreg k).base.toNat = sel.toNat * 16 ∧
        (t.sreg k).usable = true ∧
        (s.mode = .real → (t.sreg k).limit = (s.sreg k).limit ∧ (t.sreg k).attr = (s.sreg k).attr) ∧
        (s.mode = .v86 → (t.sreg k).limit = 0xFFFF#32 ∧ (t.sreg k).attr.writable = true ∧
          (t.sreg k).attr.expandDown = false ∧ (t.sreg k).attr.p = true ∧ (t.sreg k).attr.s = true ∧
          (t.sreg k).attr.dpl = 3#2) ∧
        MemKept s t ∧ SregMove i k s t)

/-- 8E with a NULL selector (0000H to 0003H) in a checked mode: it loads into DS, ES, FS and GS, and into SS in `Long64`
at CPL below 3 with RPL = CPL; no memory is written (R150). -/
def Obligations.NullSelectorLoads : Prop :=
  ∀ (p : Prefixes) (reg : BitVec 3) (rm : RM) (k : SReg) (sel : BitVec 16) (s : State), p.lock = false → p.r = false →
    sregOfField reg = some k → k ≠ .cs → checkedMode s.mode → sel.toNat < 4 →
    (k = .ss → s.mode = .long64 ∧ s.cpl ≠ 3#2 ∧ sel.extractLsb' 0 2 = s.cpl) →
    (∀ i o, (i = Instr.movSregRm16 p reg rm ∧ o = opSize s.ctx p) ∨ (i = Instr.movSregRm64 p reg rm ∧ o = .o64) →
      readSel s p i.length o rm = .next sel →
      ∃ t, exec i s = .next t ∧ (t.sreg k).sel = sel ∧ (t.sreg k).usable = false ∧
        (s.impl.nullLoadBase = .zero → (t.sreg k).base = 0#64 ∧ (t.sreg k).limit = 0#32) ∧
        (s.impl.nullLoadBase = .unchanged → (t.sreg k).base = (s.sreg k).base ∧
          (t.sreg k).limit = (s.sreg k).limit ∧ (t.sreg k).attr = (s.sreg k).attr) ∧
        MemKept s t ∧ SregMove i k s t)

/-- 8E with a NULL selector into SS is `#GP(0)`: always in `Prot` and `Compat`, in `Long64` at CPL 3 or with RPL other than
CPL (R150, R212). -/
def Obligations.NullStackSelectorFaults : Prop :=
  ∀ (p : Prefixes) (rm : RM) (sel : BitVec 16) (s : State), p.lock = false → p.r = false → sel.toNat < 4 →
    (s.mode = .prot ∨ s.mode = .compat ∨
      (s.mode = .long64 ∧ (s.cpl = 3#2 ∨ sel.extractLsb' 0 2 ≠ s.cpl))) →
    (readSel s p (Instr.movSregRm16 p 2 rm).length (opSize s.ctx p) rm = .next sel →
      exec (.movSregRm16 p 2 rm) s = .fault (.gp .zero)) ∧
    (readSel s p (Instr.movSregRm64 p 2 rm).length .o64 rm = .next sel →
      exec (.movSregRm64 p 2 rm) s = .fault (.gp .zero))

/-- 8E with a non-NULL selector in a checked mode whose descriptor can be read and passes the checks of R152, R153 and R154:
selector and hidden part are loaded from the descriptor, and of memory only the bytes of the accessed-bit write may change
(R142, R143, R155); that this is the sixth byte of the descriptor alone is the model's choice (assumption log entry 15,
DEDUCED). -/
def Obligations.DescriptorLoads : Prop :=
  ∀ (p : Prefixes) (reg : BitVec 3) (rm : RM) (k : SReg) (sel : BitVec 16) (d : Word) (u s : State), p.lock = false →
    p.r = false → sregOfField reg = some k → k ≠ .cs → checkedMode s.mode → 4 ≤ sel.toNat →
    readDesc s k sel = .next d → d.getLsbD 44 = true → d.getLsbD 47 = true →
    (k = .ss → sel.extractLsb' 0 2 = s.cpl ∧ d.extractLsb' 45 2 = s.cpl ∧ d.getLsbD 43 = false ∧ d.getLsbD 41 = true) →
    (k ≠ .ss → (d.getLsbD 43 = false ∨ d.getLsbD 41 = true) ∧
      ((d.getLsbD 43 = true ∧ d.getLsbD 42 = true) ∨
        (sel.extractLsb' 0 2 ≤ d.extractLsb' 45 2 ∧ s.cpl ≤ d.extractLsb' 45 2) ∨
        (s.impl.dataSegPrivRule = .both ∧
          (sel.extractLsb' 0 2 ≤ d.extractLsb' 45 2 ∨ s.cpl ≤ d.extractLsb' 45 2)))) →
    setAccessedBit s sel d = .next u →
    (∀ i o, (i = Instr.movSregRm16 p reg rm ∧ o = opSize s.ctx p) ∨ (i = Instr.movSregRm64 p reg rm ∧ o = .o64) →
      readSel s p i.length o rm = .next sel →
      ∃ t, exec i s = .next t ∧ (t.sreg k).sel = sel ∧
        (t.sreg k).base = (d.extractLsb' 56 8 ++ d.extractLsb' 16 24 : BitVec 32).setWidth 64 ∧
        (t.sreg k).limit.toNat =
          (if d.getLsbD 55 = true then (d.extractLsb' 48 4 ++ d.extractLsb' 0 16 : BitVec 20).toNat * 4096 + 4095
            else (d.extractLsb' 48 4 ++ d.extractLsb' 0 16 : BitVec 20).toNat) ∧
        (t.sreg k).attr.type = (d.extractLsb' 41 3 ++ 1#1 : BitVec 4) ∧
        (t.sreg k).attr.dpl = d.extractLsb' 45 2 ∧ (t.sreg k).attr.p = true ∧ (t.sreg k).attr.s = true ∧
        (t.sreg k).attr.avl = d.getLsbD 52 ∧ (t.sreg k).attr.l = d.getLsbD 53 ∧
        (t.sreg k).attr.db = d.getLsbD 54 ∧ (t.sreg k).attr.g = d.getLsbD 55 ∧ (t.sreg k).usable = true ∧
        t.mem = u.mem ∧ (s.impl.setAccessed = false ∨ d.getLsbD 40 = true → MemKept s t) ∧
        (∀ as, resolve s [] .write false ((descAddrs s sel).drop 5 |>.take 1) = .next as → MemKeptBut as s t) ∧
        SregMove i k s t)

/-- The descriptor read, once the tests on the selector have passed: the eight bytes at the table base plus the index times
eight, their addresses 32 bits wide outside `Long64`, are translated as reads with supervisor privilege. A page fault of one
of them is the outcome (or, in a load of SS, the `#GP` of an RPL other than CPL, which R222 leaves unordered with it); a byte
in a device refuses the load; else the bytes, low byte first, are the descriptor. With paging off every address is its own
translation (R36, R51, R62, R63, R65, R151). -/
def Obligations.DescriptorIsReadFromTheTable : Prop :=
  ∀ (s : State) (k : SReg) (sel : BitVec 16) (base : Word) (las : List Word), checkedMode s.mode →
    (sel.getLsbD 2 = false → base = s.gdtr.base ∧ sel.toNat / 8 * 8 + 7 ≤ s.gdtr.limit.toNat) →
    (sel.getLsbD 2 = true → base = s.ldtr.base ∧ s.ldtr.usable = true ∧ sel.toNat / 8 * 8 + 7 ≤ s.ldtr.limit.toNat) →
    las = ((List.range 8).map fun j =>
      if s.mode = .long64 then base + BitVec.ofNat 64 (sel.toNat / 8 * 8) + BitVec.ofNat 64 j
      else BitVec.ofNat 64 ((base.toNat + sel.toNat / 8 * 8 + j) % 2 ^ 32)) →
    (s.mode = .long64 → ∀ la ∈ las, canonical s.impl.vaBits la = true) →
    ((∃ la ∈ las, ∃ code, s.translate .read false la = .pageFault code ∧
        (readDesc s k sel = .fault (.pf code la) ∨
          (k = .ss ∧ sel.extractLsb' 0 2 ≠ s.cpl ∧ readDesc s k sel = .fault (.gp (.selector sel))))) ∨
      (∃ ps : List Word, las.map (s.translate .read false) = ps.map .phys ∧
        ((∃ a ∈ ps, inRegions s.devices a.toNat = true) → readDesc s k sel = .refused .deviceAccess) ∧
        ((∀ a ∈ ps, inRegions s.devices a.toNat = false) →
          ∃ d, readDesc s k sel = .next d ∧ ∀ j a, ps[j]? = some a → d.extractLsb' (8 * j) 8 = s.mem.read a.toNat))) ∧
    (s.pagingOn = false → ∀ la ∈ las, s.translate .read false la = .phys la)

/-- The write of the accessed bit, made where `SET_ACCESSED` holds and the bit is 0, and else not made: the sixth byte of the
descriptor is translated as a write with supervisor privilege. A page fault, a device or a byte of the program stops the load
with that outcome; else bit 0 of the byte becomes 1, its other bits stay as read, and no other byte and no register changes
(R63, R65, R70, R155). R63 and R155 give the write no width: that only the sixth byte is accessed, so that its translation,
device and program membership alone decide, is the model's choice (assumption log entry 15, DEDUCED). -/
def Obligations.AccessedBitIsWritten : Prop :=
  ∀ (s : State) (sel : BitVec 16) (d base la : Word), base = (if sel.getLsbD 2 = true then s.ldtr.base else s.gdtr.base) →
    la = (if s.mode = .long64 then base + BitVec.ofNat 64 (sel.toNat / 8 * 8 + 5)
      else BitVec.ofNat 64 ((base.toNat + sel.toNat / 8 * 8 + 5) % 2 ^ 32)) →
    (s.impl.setAccessed = false ∨ d.getLsbD 40 = true → setAccessedBit s sel d = .next s) ∧
    (s.impl.setAccessed = true → d.getLsbD 40 = false →
      (∀ code, s.translate .write false la = .pageFault code → setAccessedBit s sel d = .fault (.pf code la)) ∧
      (∀ a, s.translate .write false la = .phys a →
        (inRegions s.devices a.toNat = true → setAccessedBit s sel d = .refused .deviceAccess) ∧
        (inRegions s.devices a.toNat = false → inRegions s.program a.toNat = true →
          setAccessedBit s sel d = .refused .programStore) ∧
        (inRegions s.devices a.toNat = false → inRegions s.program a.toNat = false → s.mem.wf = true →
          ∃ u, setAccessedBit s sel d = .next u ∧ u.mem.read a.toNat = d.extractLsb' 40 8 ||| 1#8 ∧
            MemKeptBut [a.toNat] s u ∧ u = { s with mem := u.mem }))) ∧
    (∀ k, checkedMode s.mode → 4 ≤ sel.toNat → readDesc s k sel = .next d → descFault s k sel d = none →
      (∀ f, setAccessedBit s sel d = .fault f → loadSeg s k sel = .fault f) ∧
      (∀ f, setAccessedBit s sel d = .refused f → loadSeg s k sel = .refused f))

/-- Before the descriptor is read: a selector whose entry is not wholly inside its table, one that names the LDT when none
is loaded, and in `Long64` one whose entry has a byte at a non-canonical address, are `#GP(selector)` (R151, R213). -/
def Obligations.TableLimitFaults : Prop :=
  ∀ (p : Prefixes) (reg : BitVec 3) (rm : RM) (k : SReg) (sel : BitVec 16) (s : State), p.lock = false → p.r = false →
    sregOfField reg = some k → k ≠ .cs → checkedMode s.mode → 4 ≤ sel.toNat →
    ((sel.getLsbD 2 = false ∧ s.gdtr.limit.toNat < sel.toNat / 8 * 8 + 7) ∨
      (sel.getLsbD 2 = true ∧ (s.ldtr.usable = false ∨ s.ldtr.limit.toNat < sel.toNat / 8 * 8 + 7)) ∨
      (s.mode = .long64 ∧ ∃ j < 8, canonical s.impl.vaBits ((if sel.getLsbD 2 = true then s.ldtr.base else s.gdtr.base) +
        BitVec.ofNat 64 (sel.toNat / 8 * 8) + BitVec.ofNat 64 j) = false)) →
    (readSel s p (Instr.movSregRm16 p reg rm).length (opSize s.ctx p) rm = .next sel →
      exec (.movSregRm16 p reg rm) s = .fault (.gp (.selector sel))) ∧
    (readSel s p (Instr.movSregRm64 p reg rm).length .o64 rm = .next sel →
      exec (.movSregRm64 p reg rm) s = .fault (.gp (.selector sel)))

/-- A load of SS with RPL or DPL other than CPL, or of anything but a writable data segment, is `#GP(selector)`; with those
tests passed and P = 0 it is `#SS(selector)` (R152, R154). -/
def Obligations.StackSegmentChecks : Prop :=
  ∀ (p : Prefixes) (rm : RM) (sel : BitVec 16) (d : Word) (s : State), p.lock = false → p.r = false →
    checkedMode s.mode → 4 ≤ sel.toNat → readDesc s .ss sel = .next d →
    (∀ i o, (i = Instr.movSregRm16 p 2 rm ∧ o = opSize s.ctx p) ∨ (i = Instr.movSregRm64 p 2 rm ∧ o = .o64) →
      readSel s p i.length o rm = .next sel →
      ((sel.extractLsb' 0 2 ≠ s.cpl ∨ d.extractLsb' 45 2 ≠ s.cpl ∨ d.getLsbD 44 = false ∨ d.getLsbD 43 = true ∨
          d.getLsbD 41 = false) → exec i s = .fault (.gp (.selector sel))) ∧
      (sel.extractLsb' 0 2 = s.cpl → d.extractLsb' 45 2 = s.cpl → d.getLsbD 44 = true → d.getLsbD 43 = false →
        d.getLsbD 41 = true → d.getLsbD 47 = false → exec i s = .fault (.ss (.selector sel))))

/-- A load of DS, ES, FS or GS: a system descriptor or a code segment that is not readable is `#GP(selector)`; so is a data or
nonconforming code segment when both RPL and CPL exceed DPL, and, under `DATA_SEG_PRIV_RULE = either`, when one of them
does; with the tests passed, P = 0 is `#NP(selector)` (R153, R154). -/
def Obligations.DataSegmentChecks : Prop :=
  ∀ (p : Prefixes) (reg : BitVec 3) (rm : RM) (k : SReg) (sel : BitVec 16) (d : Word) (s : State), p.lock = false →
    p.r = false → sregOfField reg = some k → k ≠ .cs → k ≠ .ss → checkedMode s.mode → 4 ≤ sel.toNat →
    readDesc s k sel = .next d →
    (∀ i o, (i = Instr.movSregRm16 p reg rm ∧ o = opSize s.ctx p) ∨ (i = Instr.movSregRm64 p reg rm ∧ o = .o64) →
      readSel s p i.length o rm = .next sel →
      ((d.getLsbD 44 = false ∨ (d.getLsbD 43 = true ∧ d.getLsbD 41 = false)) →
        exec i s = .fault (.gp (.selector sel))) ∧
      (d.getLsbD 44 = true → (d.getLsbD 43 = false ∨ d.getLsbD 42 = false) →
        (d.extractLsb' 45 2 < sel.extractLsb' 0 2 ∧ d.extractLsb' 45 2 < s.cpl) →
        exec i s = .fault (.gp (.selector sel))) ∧
      (d.getLsbD 44 = true → (d.getLsbD 43 = false ∨ d.getLsbD 42 = false) → s.impl.dataSegPrivRule = .either →
        (d.extractLsb' 45 2 < sel.extractLsb' 0 2 ∨ d.extractLsb' 45 2 < s.cpl) →
        exec i s = .fault (.gp (.selector sel))) ∧
      (d.getLsbD 44 = true → (d.getLsbD 43 = false ∨ d.getLsbD 41 = true) →
        ((d.getLsbD 43 = true ∧ d.getLsbD 42 = true) ∨
          (sel.extractLsb' 0 2 ≤ d.extractLsb' 45 2 ∧ s.cpl ≤ d.extractLsb' 45 2) ∨
          (s.impl.dataSegPrivRule = .both ∧
            (sel.extractLsb' 0 2 ≤ d.extractLsb' 45 2 ∨ s.cpl ≤ d.extractLsb' 45 2))) →
        d.getLsbD 47 = false → exec i s = .fault (.np sel)))

/-- The order within 8E: the `#UD` of the encoding whatever the operand does; then a fault or refusal of the source operand,
before `LoadSeg` runs; then the fault or refusal of `LoadSeg` on the value read (R161). The value read is bits 15:0 of a
register, whatever the operand size, or of the `SREG_MEM_BYTES` of memory, low byte first (R142, R143). -/
def Obligations.OperandFaultComesBeforeLoadSeg : Prop :=
  (∀ (s : State) (p : Prefixes) (len : Nat) (o : OpSize),
    (∀ n, readSel s p len o (.reg n) = .next ((s.getX (BitVec.ofBool p.b ++ n)).extractLsb' 0 16)) ∧
    (∀ m a b rest, dataAddrs s (memSeg s p m) (effAddr s p len m) (sregMemBytes s o) .read = .next (a :: b :: rest) →
      readSel s p len o (.mem m) = .next (s.mem.read b ++ s.mem.read a))) ∧
  ∀ (p : Prefixes) (reg : BitVec 3) (rm : RM) (s : State), p.lock = false → p.r = false →
    (∀ i o, (i = Instr.movSregRm16 p reg rm ∧ o = opSize s.ctx p) ∨ (i = Instr.movSregRm64 p reg rm ∧ o = .o64) →
      ((reg = 1#3 ∨ reg = 6#3 ∨ reg = 7#3) → exec i s = .fault .ud) ∧
      ∀ k, sregOfField reg = some k → k ≠ .cs →
        (∀ f, readSel s p i.length o rm = .fault f → exec i s = .fault f) ∧
        (∀ f, readSel s p i.length o rm = .refused f → exec i s = .refused f) ∧
        (∀ sel, readSel s p i.length o rm = .next sel →
          (∀ f, loadSeg s k sel = .fault f → exec i s = .fault f) ∧
          (∀ f, loadSeg s k sel = .refused f → exec i s = .refused f)))

/-- 8E loads the same whatever the operand size: 66H changes nothing but the length, in what is loaded, in the fault and in
the refusal (R142, R143, R162). The source is a register or memory; a RIP-relative address counts the prefix byte, and the
row without REX.W is compared where `SREG_MEM_BYTES` is 2 for every operand size (R147). -/
def Obligations.OperandSizeIrrelevantToSegmentLoad : Prop :=
  ∀ (p q : Prefixes) (reg : BitVec 3) (rm : RM) (s : State) (i j : Instr), p.lock = false → p.opsz = false →
    q = { p with opsz := true } → (s.mode = .long64 → ∀ d, rm ≠ .mem (.disp32 d)) →
    (i = .movSregRm16 p reg rm ∧ j = .movSregRm16 q reg rm ∧ ((∃ m, rm = .mem m) → s.impl.sregMemBytes = .two)) ∨
      (i = .movSregRm64 p reg rm ∧ j = .movSregRm64 q reg rm) →
    (∀ t, exec i s = .next t → ∃ u, exec j s = .next u ∧ u = { t with rip := u.rip } ∧ PcAdvanced i s t ∧ PcAdvanced j s u) ∧
    (∀ f, exec i s = .fault f → exec j s = .fault f) ∧
    (∀ f, exec i s = .refused f → exec j s = .refused f)

/-! ## Exceptions of the encoding -/

/-- LOCK before any of the 34 forms: `#UD`, in every mode; only for a sequence of more than 15 bytes may `#GP` be reported
in its place (R104, R100). -/
def Obligations.LockRaisesInvalidOpcode : Prop :=
  ∀ (i : Instr) (s : State), i.prefixes.lock = true →
    exec i s = .fault .ud ∨ (15 < i.length ∧ exec i s = .fault (.gp s.zeroCode))

/-- A load of CS is `#UD` in every mode, whatever the operand; reading CS is valid (R145). -/
def Obligations.LoadOfCsRaisesInvalidOpcode : Prop :=
  ∀ (p : Prefixes) (rm : RM) (n : BitVec 3) (s : State), p.lock = false → p.r = false →
    exec (.movSregRm16 p 1 rm) s = .fault .ud ∧ exec (.movSregRm64 p 1 rm) s = .fault .ud ∧
    (∃ t, exec (.movRm16Sreg p 1 (.reg n)) s = .next t ∧ (t.getX (rmNum p n)).extractLsb' 0 16 = s.seg.cs.sel) ∧
    (∃ t, exec (.movRm64Sreg p 1 (.reg n)) s = .next t ∧ t.getX (rmNum p n) = s.seg.cs.sel.setWidth 64)

/-- Segment register numbers 6 and 7 are `#UD` for 8C and 8E, and REX.R = 1 is refused (R144). That the refusal comes before
the `#UD` of numbers 1, 6 and 7 (R144, R145) is the model's choice (assumption log entry 22, DEDUCED). -/
def Obligations.NoSuchSegmentRegister : Prop :=
  ∀ (p : Prefixes) (reg : BitVec 3) (rm : RM) (s : State), p.lock = false →
    (p.r = false → (reg = 6#3 ∨ reg = 7#3) →
      exec (.movRm16Sreg p reg rm) s = .fault .ud ∧ exec (.movRm64Sreg p reg rm) s = .fault .ud ∧
      exec (.movSregRm16 p reg rm) s = .fault .ud ∧ exec (.movSregRm64 p reg rm) s = .fault .ud) ∧
    (p.r = true →
      exec (.movRm16Sreg p reg rm) s = .refused .rexROnSreg ∧ exec (.movRm64Sreg p reg rm) s = .refused .rexROnSreg ∧
      exec (.movSregRm16 p reg rm) s = .refused .rexROnSreg ∧ exec (.movSregRm64 p reg rm) s = .refused .rexROnSreg)

/-- Which exceptions a MOV raises. In `Real` and `V86` no selector-caused one; in `Real` no page fault, no alignment check and
no error code; in `V86` error code 0 (R220). In any mode an exception with a selector comes from a load of a segment
register, opcode 8E (R213, R215, R216). -/
def Obligations.ExceptionsByModeAndCause : Prop :=
  (∀ (i : Instr) (s : State) (f : Fault), exec i s = .fault f →
    (s.mode = .real → f = .ud ∨ f = .gp .absent ∨ f = .ss .absent) ∧
    (s.mode = .v86 → f = .ud ∨ f = .gp .zero ∨ f = .ss .zero ∨ f = .ac ∨ ∃ code la, f = .pf code la)) ∧
  ∀ (i : Instr) (s : State) (sel : BitVec 16),
    (exec i s = .fault (.gp (.selector sel)) ∨ exec i s = .fault (.ss (.selector sel)) ∨ exec i s = .fault (.np sel)) →
    ∃ p reg rm, i = .movSregRm16 p reg rm ∨ i = .movSregRm64 p reg rm

/-- The error code as the processor pushes it: 0 for a code of 0, the selector with its two low bits cleared for a selector,
none for `#UD` and none in `Real` (R210, R219). -/
def Obligations.PushedErrorCodes : Prop :=
  (∀ sel : BitVec 16, ∃ v : BitVec 32, v.toNat = sel.toNat / 4 * 4 ∧ (Fault.gp (.selector sel)).pushedCode = some v ∧
    (Fault.ss (.selector sel)).pushedCode = some v ∧ (Fault.np sel).pushedCode = some v) ∧
  (Fault.gp .zero).pushedCode = some 0 ∧ (Fault.ss .zero).pushedCode = some 0 ∧ Fault.ac.pushedCode = some 0 ∧
  Fault.ud.pushedCode = none ∧ (Fault.gp .absent).pushedCode = none ∧ (Fault.ss .absent).pushedCode = none ∧
  ∀ code la, (Fault.pf code la).pushedCode = some code

/-! ## Equivalent encodings -/

/-- A register-to-register move can be written with either direction, `reg` and `rm` and with them REX.R and REX.B exchanged:
the outcomes are the same (R103). -/
def Obligations.DirectionsOfRegisterMovesAgree : Prop :=
  ∀ (p q : Prefixes) (a b : BitVec 3) (s : State),
    q = { p with rex := p.rex.map fun x => ⟨x.w, x.b, x.x, x.r⟩ } →
    exec (.movRm8R8 p a (.reg b)) s = exec (.movR8Rm8 q b (.reg a)) s ∧
    exec (.movRm8R8Rex p a (.reg b)) s = exec (.movR8Rm8Rex q b (.reg a)) s ∧
    exec (.movRm16R16 p a (.reg b)) s = exec (.movR16Rm16 q b (.reg a)) s ∧
    exec (.movRm32R32 p a (.reg b)) s = exec (.movR32Rm32 q b (.reg a)) s ∧
    exec (.movRm64R64 p a (.reg b)) s = exec (.movR64Rm64 q b (.reg a)) s

/-! ## The machine as a whole -/

/-- Every step keeps the invariant, and in `Real` and `V86` the segment bases that are sixteen times their selectors (R149,
R241). -/
def Obligations.StepKeepsTheInvariant : Prop :=
  ∀ s t : State, step s = .next t → (s.Inv → t.Inv) ∧ (s.NormalBases → t.NormalBases)

/-- The machine after reset has the invariant. The reset values are the model's choice: those of the table of R43, which R240
calls not normative, and the family's where R43 gives none (assumption log entries 1 and 3, PRESUMED; 4, DESIGN CHOICE). -/
def Obligations.ResetHasTheInvariant : Prop := State.reset.Inv

/-- No step changes the flags, a control register, CPL, a table register, CS, the mode, the default sizes, the program's
extent, the devices or the parameters (R26, R33, R34, R35, R36, R38, R145). -/
def Obligations.StepKeepsModeAndSystemState : Prop :=
  ∀ s t : State, step s = .next t →
    SystemKept s t ∧ t.seg.cs = s.seg.cs ∧ t.mode = s.mode ∧ t.csD = s.csD ∧ t.acOn = s.acOn

/-- No step changes a byte of the program (R70, D16), and so none that a later fetch reads. That every byte a fetch reads lies
in the program is the model's choice (assumption log entry 17, DESIGN CHOICE): R70, R250 and D16 only refuse a store. -/
def Obligations.StepKeepsTheProgram : Prop :=
  ∀ s t : State, step s = .next t →
    (∀ a, inRegions s.program a = true → t.mem.read a = s.mem.read a) ∧
    ∀ j a, fetchAddr t j = some a → inRegions s.program a = true ∧ t.mem.read a = s.mem.read a

/-- Every MOV that completes advances `pc` by the length of the whole instruction, modulo `2^64` in `Long64` and `2^32` in the
other modes (R25). -/
def Obligations.PcAdvancesByTheLength : Prop :=
  ∀ (i : Instr) (s t : State), exec i s = .next t → PcAdvanced i s t

/-- After a step that completes, the inhibition is off unless the instruction was a load of SS; after a load of SS that found
it off, it is on (R39, R156). -/
def Obligations.InhibitionFollowsLoadsOfSs : Prop :=
  ∀ (i : Instr) (s t : State), exec i s = .next t →
    ((∀ p rm, i ≠ .movSregRm16 p 2 rm ∧ i ≠ .movSregRm64 p 2 rm) → t.ssInhibit = false) ∧
    ((∃ p rm, i = .movSregRm16 p 2 rm ∨ i = .movSregRm64 p 2 rm) → s.ssInhibit = false → t.ssInhibit = true)

/-- The values after reset that the table of R43 gives, and that they meet the constraints R241 puts on an initial state. The
spec calls that table orientation: the values are the model's choice (assumption log entry 1, PRESUMED). EDX is entry 2
(DESIGN CHOICE); DPL, AVL, L, D/B, G and type bit 2 of the segments and LDTR.usable are entry 3 (PRESUMED), the places of the bits that
`mode` and `acOn` read entry 6 (PRESUMED). -/
def Obligations.ResetState : Prop :=
  State.reset.mode = .real ∧ State.reset.cr0 = 0x60000010#64 ∧ State.reset.csD = false ∧ State.reset.cpl = 0#2 ∧
    State.reset.rflags = 2#64 ∧ State.reset.acOn = false ∧ State.reset.rip = 0xFFF0#64 ∧
    State.reset.seg.cs =
      ⟨0xF000#16, 0xFFFF0000#64, 0xFFFF#32, ⟨0b1011#4, true, 0#2, true, false, false, false, false⟩, true⟩ ∧
    linearAddr State.reset .cs State.reset.rip = 0xFFFFFFF0#64 ∧
    (∀ k, k ≠ .cs → State.reset.sreg k =
      ⟨0#16, 0#64, 0xFFFF#32, ⟨0b0011#4, true, 0#2, true, false, false, false, false⟩, true⟩) ∧
    (∀ i, State.reset.getX i = 0#64) ∧ State.reset.gdtr = ⟨0#64, 0xFFFF#16⟩ ∧
    State.reset.ldtr = ⟨0#16, 0#64, 0xFFFF#32, true⟩ ∧ State.reset.ssInhibit = false ∧ State.reset.Startable ∧
    ∀ k, k ≠ .cs → (State.reset.sreg k).base.toNat = (State.reset.sreg k).sel.toNat * 16
end

