-- ==== Sys2Proof/Laws/Memory.lean ====
section
/-! SUPPORT. Memory: read after write, and every operation keeps the canonical form (R50). -/

namespace Sys2Proof.Machine

/-- A smaller bound is implied. -/
theorem Memory.wfFrom_mono {lo lo' : Nat} {m : Memory} (hle : lo' ≤ lo) (h : Memory.wfFrom lo m = true) :
    Memory.wfFrom lo' m = true := by
  cases m with
  | nil => rfl
  | cons c m =>
    simp only [Memory.wfFrom, Bool.and_eq_true, decide_eq_true_eq] at h ⊢
    exact ⟨⟨by omega, h.1.2⟩, h.2⟩

/-- Below the bound nothing is listed. -/
theorem Memory.read_below {lo a : Nat} {m : Memory} (h : Memory.wfFrom lo m = true) (ha : a < lo) :
    m.read a = Memory.unlisted a := by
  induction m generalizing lo with
  | nil => rfl
  | cons c m ih =>
    simp only [Memory.wfFrom, Bool.and_eq_true, decide_eq_true_eq] at h
    have hne : a ≠ c.1 := by omega
    simp only [Memory.read, if_neg hne]
    exact ih h.2 (by omega)

/-- A store keeps the canonical form from any bound at or below the address. -/
theorem Memory.write_wfFrom {lo a : Nat} {m : Memory} (b : Byte) (h : Memory.wfFrom lo m = true) (ha : lo ≤ a) :
    Memory.wfFrom lo (m.write a b) = true := by
  induction m generalizing lo with
  | nil =>
    unfold Memory.write
    split
    · rfl
    · simp_all [Memory.wfFrom]
  | cons c m ih =>
    have h' := h
    simp only [Memory.wfFrom, Bool.and_eq_true, decide_eq_true_eq] at h'
    obtain ⟨⟨hlo, hne⟩, htl⟩ := h'
    unfold Memory.write
    split
    · next hlt =>
      split
      · exact h
      · next hb =>
        simp only [Memory.wfFrom, Bool.and_eq_true, decide_eq_true_eq, bne_iff_ne]
        exact ⟨⟨ha, hb⟩, ⟨by omega, by simpa using hne⟩, htl⟩
    · split
      · next heq =>
        split
        · exact Memory.wfFrom_mono (by omega) htl
        · next hb =>
          simp only [Memory.wfFrom, Bool.and_eq_true, decide_eq_true_eq, bne_iff_ne]
          exact ⟨⟨ha, hb⟩, heq ▸ htl⟩
      · simp only [Memory.wfFrom, Bool.and_eq_true, decide_eq_true_eq]
        exact ⟨⟨hlo, hne⟩, ih htl (by omega)⟩

/-- A store keeps the canonical form. -/
theorem Memory.write_wf {m : Memory} (a : Nat) (b : Byte) (h : m.wf = true) : (m.write a b).wf = true :=
  Memory.write_wfFrom b h (Nat.zero_le a)

/-- A store of several bytes keeps the canonical form. -/
theorem Memory.writeAll_wf {m : Memory} (as : List Nat) (v : Word) (h : m.wf = true) : (m.writeAll as v).wf = true := by
  induction as generalizing m v with
  | nil => exact h
  | cons a as ih => exact ih _ (Memory.write_wf a _ h)

/-- Read after write, same address. -/
theorem Memory.read_write_same {m : Memory} (a : Nat) (b : Byte) (h : m.wf = true) : (m.write a b).read a = b := by
  suffices ∀ lo, Memory.wfFrom lo m = true → (m.write a b).read a = b from this 0 h
  clear h
  induction m with
  | nil =>
    intro lo _
    unfold Memory.write
    split
    · next hb => exact hb.symm
    · simp [Memory.read]
  | cons c m ih =>
    intro lo h
    simp only [Memory.wfFrom, Bool.and_eq_true, decide_eq_true_eq] at h
    obtain ⟨-, htl⟩ := h
    unfold Memory.write
    split
    · next hlt =>
      split
      · next hb =>
        have hne : a ≠ c.1 := by omega
        simp only [Memory.read, if_neg hne]
        exact (Memory.read_below htl (by omega)).trans hb.symm
      · simp [Memory.read]
    · split
      · next heq =>
        split
        · next hb => exact (Memory.read_below htl (by omega)).trans hb.symm
        · simp [Memory.read]
      · next hne =>
        simp only [Memory.read, if_neg hne]
        exact ih _ htl

/-- Read after write, another address. -/
theorem Memory.read_write_other {m : Memory} {a a' : Nat} (b : Byte) (hne : a' ≠ a) :
    (m.write a b).read a' = m.read a' := by
  induction m with
  | nil =>
    unfold Memory.write
    split
    · rfl
    · simp [Memory.read, hne]
  | cons c m ih =>
    unfold Memory.write
    split
    · split
      · rfl
      · simp [Memory.read, hne]
    · split
      · next heq =>
        have hc : a' ≠ c.1 := heq ▸ hne
        split
        · simp only [Memory.read, if_neg hc]
        · simp only [Memory.read, if_neg hc, if_neg hne]
      · simp only [Memory.read, ih]

/-- A store of several bytes leaves every other address alone. -/
theorem Memory.read_writeAll_other {m : Memory} {as : List Nat} {a : Nat} (v : Word) (h : a ∉ as) :
    (m.writeAll as v).read a = m.read a := by
  induction as generalizing m v with
  | nil => rfl
  | cons b as ih =>
    simp only [List.mem_cons, not_or] at h
    simp only [Memory.writeAll, ih _ h.2, Memory.read_write_other _ h.1]

/-- A store of several bytes at different addresses puts byte `k` of the value at the `k`-th address (R50). -/
theorem Memory.read_writeAll_same {m : Memory} {as : List Nat} (v : Word) (hm : m.wf = true) (hd : as.Nodup) (k : Nat)
    (hk : k < as.length) : (m.writeAll as v).read as[k] = (v >>> (8 * k)).setWidth 8 := by
  induction as generalizing m v k with
  | nil => simp at hk
  | cons a as ih =>
    have hd' := List.nodup_cons.mp hd
    cases k with
    | zero =>
      simp only [Memory.writeAll, List.getElem_cons_zero, Memory.read_writeAll_other _ hd'.1,
        Memory.read_write_same a _ hm]
      simp
    | succ k =>
      simp only [Memory.writeAll, List.getElem_cons_succ]
      rw [ih _ (Memory.write_wf a _ hm) hd'.2 k (by simpa using hk), ← BitVec.shiftRight_add]
      congr 2
      omega

end Sys2Proof.Machine
end

