-- ==== Sys2Proof/Laws/PerInstr.lean ====
section
/-! SUPPORT. The length of every instruction (R100): at least 2 bytes, at most 15 without LOCK and 16 with it. -/

namespace Sys2Proof

/-- At most one prefix byte of each group and one REX (R83). -/
theorem Prefixes.bytes_length (p : Prefixes) :
    p.bytes.length ≤ (if p.lock then 1 else 0) + 4 := by
  obtain ⟨lock, seg, opsz, adsz, rex⟩ := p
  cases lock <;> cases seg <;> cases opsz <;> cases adsz <;> cases rex <;> simp [Prefixes.bytes]

/-- ModRM, SIB and displacement take one to six bytes (R80). -/
theorem RM.bytes_length (reg : BitVec 3) (rm : RM) : 1 ≤ (rm.bytes reg).length ∧ (rm.bytes reg).length ≤ 6 := by
  cases rm with
  | reg r => simp [RM.bytes]
  | mem m =>
    cases m with
    | based16 b d => cases d <;> simp [RM.bytes, dispBytes16, bytes16]
    | abs16 d => simp [RM.bytes, bytes16]
    | based r d => cases d <;> simp [RM.bytes, dispBytes32, bytes32]
    | disp32 d => simp [RM.bytes, bytes32]
    | sib s i b d => cases d <;> simp [RM.bytes, dispBytes32, bytes32]
    | sibAbs s i d => simp [RM.bytes, bytes32]

/-- An offset takes two, four or eight bytes (R97). -/
theorem Moffs.bytes_length (m : Moffs) : 2 ≤ m.bytes.length ∧ m.bytes.length ≤ 8 := by
  cases m <;> simp [Moffs.bytes, bytes16, bytes32, bytes64]

namespace Laws.LengthBounds

/-- The bounds on the length of an instruction (R100). -/
def Statement (i : Instr) : Prop :=
  2 ≤ i.length ∧ i.length ≤ 16 ∧ (i.prefixes.lock = false → i.length ≤ 15)

/-- A body of 2 to 11 bytes gives the bounds. -/
theorem of_body {i : Instr} (h : 2 ≤ i.body.length ∧ i.body.length ≤ 11) : Statement i := by
  have hp := i.prefixes.bytes_length
  have hl : i.length = i.prefixes.bytes.length + i.body.length := by simp [Instr.length, encode]
  rcases hlock : i.prefixes.lock with _ | _ <;> simp only [hlock] at hp <;> refine ⟨?_, ?_, ?_⟩ <;> simp_all <;> omega

theorem movRm8R8 (p : Prefixes) (reg : BitVec 3) (rm : RM) : Statement (.movRm8R8 p reg rm) :=
  of_body (by
    have h := rm.bytes_length reg
    simp only [Instr.body, List.length_cons]
    omega)

theorem movRm8R8Rex (p : Prefixes) (reg : BitVec 3) (rm : RM) : Statement (.movRm8R8Rex p reg rm) :=
  of_body (by
    have h := rm.bytes_length reg
    simp only [Instr.body, List.length_cons]
    omega)

theorem movRm16R16 (p : Prefixes) (reg : BitVec 3) (rm : RM) : Statement (.movRm16R16 p reg rm) :=
  of_body (by
    have h := rm.bytes_length reg
    simp only [Instr.body, List.length_cons]
    omega)

theorem movRm32R32 (p : Prefixes) (reg : BitVec 3) (rm : RM) : Statement (.movRm32R32 p reg rm) :=
  of_body (by
    have h := rm.bytes_length reg
    simp only [Instr.body, List.length_cons]
    omega)

theorem movRm64R64 (p : Prefixes) (reg : BitVec 3) (rm : RM) : Statement (.movRm64R64 p reg rm) :=
  of_body (by
    have h := rm.bytes_length reg
    simp only [Instr.body, List.length_cons]
    omega)

theorem movR8Rm8 (p : Prefixes) (reg : BitVec 3) (rm : RM) : Statement (.movR8Rm8 p reg rm) :=
  of_body (by
    have h := rm.bytes_length reg
    simp only [Instr.body, List.length_cons]
    omega)

theorem movR8Rm8Rex (p : Prefixes) (reg : BitVec 3) (rm : RM) : Statement (.movR8Rm8Rex p reg rm) :=
  of_body (by
    have h := rm.bytes_length reg
    simp only [Instr.body, List.length_cons]
    omega)

theorem movR16Rm16 (p : Prefixes) (reg : BitVec 3) (rm : RM) : Statement (.movR16Rm16 p reg rm) :=
  of_body (by
    have h := rm.bytes_length reg
    simp only [Instr.body, List.length_cons]
    omega)

theorem movR32Rm32 (p : Prefixes) (reg : BitVec 3) (rm : RM) : Statement (.movR32Rm32 p reg rm) :=
  of_body (by
    have h := rm.bytes_length reg
    simp only [Instr.body, List.length_cons]
    omega)

theorem movR64Rm64 (p : Prefixes) (reg : BitVec 3) (rm : RM) : Statement (.movR64Rm64 p reg rm) :=
  of_body (by
    have h := rm.bytes_length reg
    simp only [Instr.body, List.length_cons]
    omega)

theorem movRm16Sreg (p : Prefixes) (reg : BitVec 3) (rm : RM) : Statement (.movRm16Sreg p reg rm) :=
  of_body (by
    have h := rm.bytes_length reg
    simp only [Instr.body, List.length_cons]
    omega)

theorem movRm64Sreg (p : Prefixes) (reg : BitVec 3) (rm : RM) : Statement (.movRm64Sreg p reg rm) :=
  of_body (by
    have h := rm.bytes_length reg
    simp only [Instr.body, List.length_cons]
    omega)

theorem movSregRm16 (p : Prefixes) (reg : BitVec 3) (rm : RM) : Statement (.movSregRm16 p reg rm) :=
  of_body (by
    have h := rm.bytes_length reg
    simp only [Instr.body, List.length_cons]
    omega)

theorem movSregRm64 (p : Prefixes) (reg : BitVec 3) (rm : RM) : Statement (.movSregRm64 p reg rm) :=
  of_body (by
    have h := rm.bytes_length reg
    simp only [Instr.body, List.length_cons]
    omega)

theorem movAlMoffs8 (p : Prefixes) (m : Moffs) : Statement (.movAlMoffs8 p m) :=
  of_body (by
    have h := m.bytes_length
    simp only [Instr.body, List.length_cons]
    omega)

theorem movAlMoffs8RexW (p : Prefixes) (m : Moffs) : Statement (.movAlMoffs8RexW p m) :=
  of_body (by
    have h := m.bytes_length
    simp only [Instr.body, List.length_cons]
    omega)

theorem movAxMoffs16 (p : Prefixes) (m : Moffs) : Statement (.movAxMoffs16 p m) :=
  of_body (by
    have h := m.bytes_length
    simp only [Instr.body, List.length_cons]
    omega)

theorem movEaxMoffs32 (p : Prefixes) (m : Moffs) : Statement (.movEaxMoffs32 p m) :=
  of_body (by
    have h := m.bytes_length
    simp only [Instr.body, List.length_cons]
    omega)

theorem movRaxMoffs64 (p : Prefixes) (m : Moffs) : Statement (.movRaxMoffs64 p m) :=
  of_body (by
    have h := m.bytes_length
    simp only [Instr.body, List.length_cons]
    omega)

theorem movMoffs8Al (p : Prefixes) (m : Moffs) : Statement (.movMoffs8Al p m) :=
  of_body (by
    have h := m.bytes_length
    simp only [Instr.body, List.length_cons]
    omega)

theorem movMoffs8AlRexW (p : Prefixes) (m : Moffs) : Statement (.movMoffs8AlRexW p m) :=
  of_body (by
    have h := m.bytes_length
    simp only [Instr.body, List.length_cons]
    omega)

theorem movMoffs16Ax (p : Prefixes) (m : Moffs) : Statement (.movMoffs16Ax p m) :=
  of_body (by
    have h := m.bytes_length
    simp only [Instr.body, List.length_cons]
    omega)

theorem movMoffs32Eax (p : Prefixes) (m : Moffs) : Statement (.movMoffs32Eax p m) :=
  of_body (by
    have h := m.bytes_length
    simp only [Instr.body, List.length_cons]
    omega)

theorem movMoffs64Rax (p : Prefixes) (m : Moffs) : Statement (.movMoffs64Rax p m) :=
  of_body (by
    have h := m.bytes_length
    simp only [Instr.body, List.length_cons]
    omega)

theorem movR8Imm8 (p : Prefixes) (r : BitVec 3) (imm : BitVec 8) : Statement (.movR8Imm8 p r imm) :=
  of_body (by simp [Instr.body])

theorem movR8Imm8Rex (p : Prefixes) (r : BitVec 3) (imm : BitVec 8) : Statement (.movR8Imm8Rex p r imm) :=
  of_body (by simp [Instr.body])

theorem movR16Imm16 (p : Prefixes) (r : BitVec 3) (imm : BitVec 16) : Statement (.movR16Imm16 p r imm) :=
  of_body (by simp [Instr.body, bytes16])

theorem movR32Imm32 (p : Prefixes) (r : BitVec 3) (imm : BitVec 32) : Statement (.movR32Imm32 p r imm) :=
  of_body (by simp [Instr.body, bytes32])

theorem movR64Imm64 (p : Prefixes) (r : BitVec 3) (imm : BitVec 64) : Statement (.movR64Imm64 p r imm) :=
  of_body (by simp [Instr.body, bytes64])

theorem movRm8Imm8 (p : Prefixes) (rm : RM) (imm : BitVec 8) : Statement (.movRm8Imm8 p rm imm) :=
  of_body (by
    have h := rm.bytes_length 0#3
    simp [Instr.body]
    omega)

theorem movRm8Imm8Rex (p : Prefixes) (rm : RM) (imm : BitVec 8) : Statement (.movRm8Imm8Rex p rm imm) :=
  of_body (by
    have h := rm.bytes_length 0#3
    simp [Instr.body]
    omega)

theorem movRm16Imm16 (p : Prefixes) (rm : RM) (imm : BitVec 16) : Statement (.movRm16Imm16 p rm imm) :=
  of_body (by
    have h := rm.bytes_length 0#3
    simp [Instr.body, bytes16]
    omega)

theorem movRm32Imm32 (p : Prefixes) (rm : RM) (imm : BitVec 32) : Statement (.movRm32Imm32 p rm imm) :=
  of_body (by
    have h := rm.bytes_length 0#3
    simp [Instr.body, bytes32]
    omega)

theorem movRm64Imm32 (p : Prefixes) (rm : RM) (imm : BitVec 32) : Statement (.movRm64Imm32 p rm imm) :=
  of_body (by
    have h := rm.bytes_length 0#3
    simp [Instr.body, bytes32]
    omega)

/-- The bounds hold for every instruction. -/
theorem all (i : Instr) : Statement i := by
  cases i
  case movRm8R8 => exact movRm8R8 ..
  case movRm8R8Rex => exact movRm8R8Rex ..
  case movRm16R16 => exact movRm16R16 ..
  case movRm32R32 => exact movRm32R32 ..
  case movRm64R64 => exact movRm64R64 ..
  case movR8Rm8 => exact movR8Rm8 ..
  case movR8Rm8Rex => exact movR8Rm8Rex ..
  case movR16Rm16 => exact movR16Rm16 ..
  case movR32Rm32 => exact movR32Rm32 ..
  case movR64Rm64 => exact movR64Rm64 ..
  case movRm16Sreg => exact movRm16Sreg ..
  case movRm64Sreg => exact movRm64Sreg ..
  case movSregRm16 => exact movSregRm16 ..
  case movSregRm64 => exact movSregRm64 ..
  case movAlMoffs8 => exact movAlMoffs8 ..
  case movAlMoffs8RexW => exact movAlMoffs8RexW ..
  case movAxMoffs16 => exact movAxMoffs16 ..
  case movEaxMoffs32 => exact movEaxMoffs32 ..
  case movRaxMoffs64 => exact movRaxMoffs64 ..
  case movMoffs8Al => exact movMoffs8Al ..
  case movMoffs8AlRexW => exact movMoffs8AlRexW ..
  case movMoffs16Ax => exact movMoffs16Ax ..
  case movMoffs32Eax => exact movMoffs32Eax ..
  case movMoffs64Rax => exact movMoffs64Rax ..
  case movR8Imm8 => exact movR8Imm8 ..
  case movR8Imm8Rex => exact movR8Imm8Rex ..
  case movR16Imm16 => exact movR16Imm16 ..
  case movR32Imm32 => exact movR32Imm32 ..
  case movR64Imm64 => exact movR64Imm64 ..
  case movRm8Imm8 => exact movRm8Imm8 ..
  case movRm8Imm8Rex => exact movRm8Imm8Rex ..
  case movRm16Imm16 => exact movRm16Imm16 ..
  case movRm32Imm32 => exact movRm32Imm32 ..
  case movRm64Imm32 => exact movRm64Imm32 ..

end Laws.LengthBounds

end Sys2Proof
end

