-- ==== Sys2Proof/Laws/State.lean ====
section
/-! SUPPORT. One lemma per field per update of the state, and the readings of an updated state. -/

namespace Sys2Proof.Machine

@[simp] theorem setX_rip (s : State) (i : BitVec 4) (v : Word) : (s.setX i v).rip = s.rip := rfl
@[simp] theorem setX_rflags (s : State) (i : BitVec 4) (v : Word) : (s.setX i v).rflags = s.rflags := rfl
@[simp] theorem setX_seg (s : State) (i : BitVec 4) (v : Word) : (s.setX i v).seg = s.seg := rfl
@[simp] theorem setX_cr0 (s : State) (i : BitVec 4) (v : Word) : (s.setX i v).cr0 = s.cr0 := rfl
@[simp] theorem setX_cr2 (s : State) (i : BitVec 4) (v : Word) : (s.setX i v).cr2 = s.cr2 := rfl
@[simp] theorem setX_cr3 (s : State) (i : BitVec 4) (v : Word) : (s.setX i v).cr3 = s.cr3 := rfl
@[simp] theorem setX_efer (s : State) (i : BitVec 4) (v : Word) : (s.setX i v).efer = s.efer := rfl
@[simp] theorem setX_cpl (s : State) (i : BitVec 4) (v : Word) : (s.setX i v).cpl = s.cpl := rfl
@[simp] theorem setX_gdtr (s : State) (i : BitVec 4) (v : Word) : (s.setX i v).gdtr = s.gdtr := rfl
@[simp] theorem setX_ldtr (s : State) (i : BitVec 4) (v : Word) : (s.setX i v).ldtr = s.ldtr := rfl
@[simp] theorem setX_ssInhibit (s : State) (i : BitVec 4) (v : Word) : (s.setX i v).ssInhibit = s.ssInhibit := rfl
@[simp] theorem setX_mem (s : State) (i : BitVec 4) (v : Word) : (s.setX i v).mem = s.mem := rfl
@[simp] theorem setX_program (s : State) (i : BitVec 4) (v : Word) : (s.setX i v).program = s.program := rfl
@[simp] theorem setX_devices (s : State) (i : BitVec 4) (v : Word) : (s.setX i v).devices = s.devices := rfl
@[simp] theorem setX_impl (s : State) (i : BitVec 4) (v : Word) : (s.setX i v).impl = s.impl := rfl
@[simp] theorem setX_draws (s : State) (i : BitVec 4) (v : Word) : (s.setX i v).draws = s.draws := rfl
@[simp] theorem setSreg_gpr (s : State) (k : SReg) (r : SegReg) : (s.setSreg k r).gpr = s.gpr := by cases k <;> rfl
@[simp] theorem setSreg_rip (s : State) (k : SReg) (r : SegReg) : (s.setSreg k r).rip = s.rip := by cases k <;> rfl
@[simp] theorem setSreg_rflags (s : State) (k : SReg) (r : SegReg) : (s.setSreg k r).rflags = s.rflags := by cases k <;> rfl
@[simp] theorem setSreg_cr0 (s : State) (k : SReg) (r : SegReg) : (s.setSreg k r).cr0 = s.cr0 := by cases k <;> rfl
@[simp] theorem setSreg_cr2 (s : State) (k : SReg) (r : SegReg) : (s.setSreg k r).cr2 = s.cr2 := by cases k <;> rfl
@[simp] theorem setSreg_cr3 (s : State) (k : SReg) (r : SegReg) : (s.setSreg k r).cr3 = s.cr3 := by cases k <;> rfl
@[simp] theorem setSreg_efer (s : State) (k : SReg) (r : SegReg) : (s.setSreg k r).efer = s.efer := by cases k <;> rfl
@[simp] theorem setSreg_cpl (s : State) (k : SReg) (r : SegReg) : (s.setSreg k r).cpl = s.cpl := by cases k <;> rfl
@[simp] theorem setSreg_gdtr (s : State) (k : SReg) (r : SegReg) : (s.setSreg k r).gdtr = s.gdtr := by cases k <;> rfl
@[simp] theorem setSreg_ldtr (s : State) (k : SReg) (r : SegReg) : (s.setSreg k r).ldtr = s.ldtr := by cases k <;> rfl
@[simp] theorem setSreg_ssInhibit (s : State) (k : SReg) (r : SegReg) : (s.setSreg k r).ssInhibit = s.ssInhibit := by cases k <;> rfl
@[simp] theorem setSreg_mem (s : State) (k : SReg) (r : SegReg) : (s.setSreg k r).mem = s.mem := by cases k <;> rfl
@[simp] theorem setSreg_program (s : State) (k : SReg) (r : SegReg) : (s.setSreg k r).program = s.program := by cases k <;> rfl
@[simp] theorem setSreg_devices (s : State) (k : SReg) (r : SegReg) : (s.setSreg k r).devices = s.devices := by cases k <;> rfl
@[simp] theorem setSreg_impl (s : State) (k : SReg) (r : SegReg) : (s.setSreg k r).impl = s.impl := by cases k <;> rfl
@[simp] theorem setSreg_draws (s : State) (k : SReg) (r : SegReg) : (s.setSreg k r).draws = s.draws := by cases k <;> rfl
@[simp] theorem draw_gpr (s : State) : s.draw.2.gpr = s.gpr := rfl
@[simp] theorem draw_rip (s : State) : s.draw.2.rip = s.rip := rfl
@[simp] theorem draw_rflags (s : State) : s.draw.2.rflags = s.rflags := rfl
@[simp] theorem draw_seg (s : State) : s.draw.2.seg = s.seg := rfl
@[simp] theorem draw_cr0 (s : State) : s.draw.2.cr0 = s.cr0 := rfl
@[simp] theorem draw_cr2 (s : State) : s.draw.2.cr2 = s.cr2 := rfl
@[simp] theorem draw_cr3 (s : State) : s.draw.2.cr3 = s.cr3 := rfl
@[simp] theorem draw_efer (s : State) : s.draw.2.efer = s.efer := rfl
@[simp] theorem draw_cpl (s : State) : s.draw.2.cpl = s.cpl := rfl
@[simp] theorem draw_gdtr (s : State) : s.draw.2.gdtr = s.gdtr := rfl
@[simp] theorem draw_ldtr (s : State) : s.draw.2.ldtr = s.ldtr := rfl
@[simp] theorem draw_ssInhibit (s : State) : s.draw.2.ssInhibit = s.ssInhibit := rfl
@[simp] theorem draw_mem (s : State) : s.draw.2.mem = s.mem := rfl
@[simp] theorem draw_program (s : State) : s.draw.2.program = s.program := rfl
@[simp] theorem draw_devices (s : State) : s.draw.2.devices = s.devices := rfl
@[simp] theorem draw_impl (s : State) : s.draw.2.impl = s.impl := rfl
@[simp] theorem draw_draws (s : State) : s.draw.2.draws = s.draws + 1 := rfl
@[simp] theorem complete_gpr (s : State) (len : Nat) (b : Bool) : (complete s len b).gpr = s.gpr := rfl
@[simp] theorem complete_rip (s : State) (len : Nat) (b : Bool) : (complete s len b).rip = nextPc s len := rfl
@[simp] theorem complete_rflags (s : State) (len : Nat) (b : Bool) : (complete s len b).rflags = s.rflags := rfl
@[simp] theorem complete_seg (s : State) (len : Nat) (b : Bool) : (complete s len b).seg = s.seg := rfl
@[simp] theorem complete_cr0 (s : State) (len : Nat) (b : Bool) : (complete s len b).cr0 = s.cr0 := rfl
@[simp] theorem complete_cr2 (s : State) (len : Nat) (b : Bool) : (complete s len b).cr2 = s.cr2 := rfl
@[simp] theorem complete_cr3 (s : State) (len : Nat) (b : Bool) : (complete s len b).cr3 = s.cr3 := rfl
@[simp] theorem complete_efer (s : State) (len : Nat) (b : Bool) : (complete s len b).efer = s.efer := rfl
@[simp] theorem complete_cpl (s : State) (len : Nat) (b : Bool) : (complete s len b).cpl = s.cpl := rfl
@[simp] theorem complete_gdtr (s : State) (len : Nat) (b : Bool) : (complete s len b).gdtr = s.gdtr := rfl
@[simp] theorem complete_ldtr (s : State) (len : Nat) (b : Bool) : (complete s len b).ldtr = s.ldtr := rfl
@[simp] theorem complete_ssInhibit (s : State) (len : Nat) (b : Bool) : (complete s len b).ssInhibit = b := rfl
@[simp] theorem complete_mem (s : State) (len : Nat) (b : Bool) : (complete s len b).mem = s.mem := rfl
@[simp] theorem complete_program (s : State) (len : Nat) (b : Bool) : (complete s len b).program = s.program := rfl
@[simp] theorem complete_devices (s : State) (len : Nat) (b : Bool) : (complete s len b).devices = s.devices := rfl
@[simp] theorem complete_impl (s : State) (len : Nat) (b : Bool) : (complete s len b).impl = s.impl := rfl
@[simp] theorem complete_draws (s : State) (len : Nat) (b : Bool) : (complete s len b).draws = s.draws := rfl
@[simp] theorem draw_value (s : State) : s.draw.1 = Config.draw s.draws := rfl

/-! ## General registers -/

@[simp] theorem getX_setX_same (s : State) (i : BitVec 4) (v : Word) : (s.setX i v).getX i = v := by simp [State.getX, State.setX]
theorem getX_setX_other (s : State) {i j : BitVec 4} (v : Word) (h : j ≠ i) : (s.setX i v).getX j = s.getX j := by
  have h' : i.toNat ≠ j.toNat := fun e => h (BitVec.eq_of_toNat_eq e.symm)
  simp [State.getX, State.setX, Vector.getElem_set_ne, h']
@[simp] theorem getX_setSreg (s : State) (k : SReg) (r : SegReg) (i : BitVec 4) : (s.setSreg k r).getX i = s.getX i := by cases k <;> rfl
@[simp] theorem getX_draw (s : State) (i : BitVec 4) : s.draw.2.getX i = s.getX i := rfl
@[simp] theorem getX_complete (s : State) (len : Nat) (b : Bool) (i : BitVec 4) : (complete s len b).getX i = s.getX i := rfl

/-! ## Segment registers -/

@[simp] theorem sreg_setSreg_same (s : State) (k : SReg) (r : SegReg) : (s.setSreg k r).sreg k = r := by cases k <;> rfl
theorem sreg_setSreg_other (s : State) {j k : SReg} (r : SegReg) (h : j ≠ k) : (s.setSreg k r).sreg j = s.sreg j := by
  cases j <;> cases k <;> first | rfl | exact absurd rfl h
@[simp] theorem sreg_setX (s : State) (i : BitVec 4) (v : Word) (k : SReg) : (s.setX i v).sreg k = s.sreg k := by cases k <;> rfl
@[simp] theorem sreg_draw (s : State) (k : SReg) : s.draw.2.sreg k = s.sreg k := by cases k <;> rfl
@[simp] theorem sreg_complete (s : State) (len : Nat) (b : Bool) (k : SReg) : (complete s len b).sreg k = s.sreg k := by cases k <;> rfl
theorem setSreg_cs (s : State) {k : SReg} (r : SegReg) (h : k ≠ .cs) : (s.setSreg k r).seg.cs = s.seg.cs := by
  cases k <;> first | rfl | exact absurd rfl h

/-! ## Mode, sizes, privilege -/

/-- The mode depends only on CR0, RFLAGS, EFER, CS and the implementation (R33). -/
theorem mode_congr {s t : State} (h0 : t.cr0 = s.cr0) (hf : t.rflags = s.rflags) (he : t.efer = s.efer)
    (hc : t.seg.cs = s.seg.cs) (hi : t.impl = s.impl) : t.mode = s.mode := by
  simp [State.mode, State.pe, State.flagVM, State.lma, h0, hf, he, hc, hi]

@[simp] theorem setX_mode (s : State) (i : BitVec 4) (v : Word) : (s.setX i v).mode = s.mode := rfl
@[simp] theorem draw_mode (s : State) : s.draw.2.mode = s.mode := rfl
@[simp] theorem complete_mode (s : State) (len : Nat) (b : Bool) : (complete s len b).mode = s.mode := rfl
@[simp] theorem setX_csD (s : State) (i : BitVec 4) (v : Word) : (s.setX i v).csD = s.csD := rfl
@[simp] theorem draw_csD (s : State) : s.draw.2.csD = s.csD := rfl
@[simp] theorem complete_csD (s : State) (len : Nat) (b : Bool) : (complete s len b).csD = s.csD := rfl
@[simp] theorem setX_ctx (s : State) (i : BitVec 4) (v : Word) : (s.setX i v).ctx = s.ctx := rfl
@[simp] theorem draw_ctx (s : State) : s.draw.2.ctx = s.ctx := rfl
@[simp] theorem complete_ctx (s : State) (len : Nat) (b : Bool) : (complete s len b).ctx = s.ctx := rfl
@[simp] theorem setX_acOn (s : State) (i : BitVec 4) (v : Word) : (s.setX i v).acOn = s.acOn := rfl
@[simp] theorem draw_acOn (s : State) : s.draw.2.acOn = s.acOn := rfl
@[simp] theorem complete_acOn (s : State) (len : Nat) (b : Bool) : (complete s len b).acOn = s.acOn := rfl
@[simp] theorem setX_pagingOn (s : State) (i : BitVec 4) (v : Word) : (s.setX i v).pagingOn = s.pagingOn := rfl
@[simp] theorem draw_pagingOn (s : State) : s.draw.2.pagingOn = s.pagingOn := rfl
@[simp] theorem complete_pagingOn (s : State) (len : Nat) (b : Bool) : (complete s len b).pagingOn = s.pagingOn := rfl
@[simp] theorem setX_zeroCode (s : State) (i : BitVec 4) (v : Word) : (s.setX i v).zeroCode = s.zeroCode := rfl
@[simp] theorem draw_zeroCode (s : State) : s.draw.2.zeroCode = s.zeroCode := rfl
@[simp] theorem complete_zeroCode (s : State) (len : Nat) (b : Bool) : (complete s len b).zeroCode = s.zeroCode := rfl
@[simp] theorem setX_wideLinear (s : State) (i : BitVec 4) (v : Word) : (s.setX i v).wideLinear = s.wideLinear := rfl
@[simp] theorem draw_wideLinear (s : State) : s.draw.2.wideLinear = s.wideLinear := rfl
@[simp] theorem complete_wideLinear (s : State) (len : Nat) (b : Bool) : (complete s len b).wideLinear = s.wideLinear := rfl
theorem setSreg_mode (s : State) {k : SReg} (r : SegReg) (h : k ≠ .cs) : (s.setSreg k r).mode = s.mode :=
  mode_congr (by simp) (by simp) (by simp) (setSreg_cs s r h) (by simp)
@[simp] theorem withMem_mode (s : State) (m : Memory) : State.mode { s with mem := m } = s.mode := rfl
@[simp] theorem withMem_getX (s : State) (m : Memory) (i : BitVec 4) : State.getX { s with mem := m } i = s.getX i := rfl
@[simp] theorem withMem_sreg (s : State) (m : Memory) (k : SReg) : State.sreg { s with mem := m } k = s.sreg k := by cases k <;> rfl
@[simp] theorem nextPc_setX (s : State) (i : BitVec 4) (v : Word) (len : Nat) : nextPc (s.setX i v) len = nextPc s len := rfl
@[simp] theorem nextPc_draw (s : State) (len : Nat) : nextPc s.draw.2 len = nextPc s len := rfl
@[simp] theorem nextPc_withMem (s : State) (m : Memory) (len : Nat) : nextPc { s with mem := m } len = nextPc s len := rfl
theorem nextPc_setSreg (s : State) {k : SReg} (r : SegReg) (len : Nat) (h : k ≠ .cs) :
    nextPc (s.setSreg k r) len = nextPc s len := by
  simp only [nextPc, setSreg_mode s r h, setSreg_rip]

end Sys2Proof.Machine
end

