-- ==== Sys2Proof/Laws/Ops.lean ====
section
/-! SUPPORT. For each shared operation, once, everything it can do. -/

namespace Sys2Proof.Machine

/-! ## Results -/

@[simp] theorem andThen_next {α β : Type} (a : α) (f : α → Res β) : andThen (.next a) f = f a := rfl
@[simp] theorem andThen_fault {α β : Type} (x : Fault) (f : α → Res β) : andThen (.fault x) f = .fault x := rfl
@[simp] theorem andThen_refused {α β : Type} (x : Refusal) (f : α → Res β) : andThen (.refused x) f = .refused x := rfl
@[simp] theorem guardFault_none {α : Type} (k : Res α) : guardFault none k = k := rfl
@[simp] theorem guardFault_some {α : Type} (x : Fault) (k : Res α) : guardFault (some x) k = .fault x := rfl
@[simp] theorem raise_eq {α : Type} (x : Fault) : (raise x : Res α) = .fault x := rfl

/-- A sequence answers a value only when both parts do. -/
theorem andThen_eq_next {α β : Type} {r : Res α} {f : α → Res β} {b : β} (h : andThen r f = .next b) :
    ∃ a, r = .next a ∧ f a = .next b := by
  cases r with
  | next a => exact ⟨a, rfl, h⟩
  | fault x => cases h
  | refused x => cases h

/-- A guarded operation answers a value only when there is no fault. -/
theorem guardFault_eq_next {α : Type} {f : Option Fault} {k : Res α} {a : α} (h : guardFault f k = .next a) :
    f = none ∧ k = .next a := by
  cases f with
  | none => exact ⟨rfl, h⟩
  | some x => cases h

/-! ## The choice of an exception (R222) -/

@[simp] theorem chooseFault_nil (s : State) : chooseFault s [] = none := rfl
@[simp] theorem chooseFault_one (s : State) (f : Fault) : chooseFault s [f] = some f := rfl

/-- No exception is chosen only from none. -/
theorem chooseFault_eq_none {s : State} {fs : List Fault} : chooseFault s fs = none ↔ fs = [] := by
  match fs with
  | [] => simp
  | [f] => simp
  | f :: g :: fs => simp [chooseFault]

/-- The exception chosen is one of those that apply. -/
theorem chooseFault_mem {s : State} {fs : List Fault} {f : Fault} (h : chooseFault s fs = some f) : f ∈ fs := by
  match fs with
  | [] => cases h
  | [g] =>
    cases h
    exact List.mem_singleton.mpr rfl
  | g :: g' :: fs =>
    simp only [chooseFault, Option.some.injEq] at h
    subst h
    have hlt : Config.pick s.draws % ((g' :: fs).length + 1) < (g :: g' :: fs).length :=
      Nat.mod_lt _ (Nat.succ_pos _)
    rw [List.getD_eq_getElem _ _ hlt]
    exact List.getElem_mem hlt

/-- Where exceptions apply, one of them is chosen. -/
theorem chooseFault_isSome {s : State} {fs : List Fault} (h : fs ≠ []) : ∃ f ∈ fs, chooseFault s fs = some f := by
  cases hc : chooseFault s fs with
  | none => exact absurd (chooseFault_eq_none.mp hc) h
  | some f => exact ⟨f, chooseFault_mem hc, rfl⟩

/-! ## Translation and stores (R62, R64, R70) -/

/-- In `Real`, and with paging off, the linear address is the physical one (R62). -/
theorem translate_identity {s : State} (kind : AccessKind) (user : Bool) (la : Word)
    (h : s.mode = .real ∨ s.pagingOn = false) : s.translate kind user la = .phys la := by
  simp [State.translate, h]

/-- Everything `resolve` can do when it answers: no exception, every byte translated, no device. -/
theorem resolve_eq_next {s : State} {others : List Fault} {kind : AccessKind} {user : Bool} {las : List Word}
    {as : List Nat} (h : resolve s others kind user las = .next as) :
    others = [] ∧ las.filterMap (pageFault? s kind user) = [] ∧ as = las.filterMap (physical? s kind user) ∧
      as.any (inRegions s.devices) = false := by
  obtain ⟨hf, hk⟩ := guardFault_eq_next h
  have hn := List.append_eq_nil_iff.mp (chooseFault_eq_none.mp hf)
  split at hk
  · cases hk
  · next hd =>
    cases hk
    exact ⟨hn.1, hn.2, rfl, by simpa using hd⟩

/-- Everything `storeAt` can do when it answers: no byte of the program, and only memory changes. -/
theorem storeAt_eq_next {s t : State} {as : List Nat} {v : Word} (h : storeAt s as v = .next t) :
    as.any (inRegions s.program) = false ∧ t = { s with mem := s.mem.writeAll as v } := by
  unfold storeAt at h
  split at h
  · cases h
  · next hp =>
    cases h
    exact ⟨by simpa using hp, rfl⟩

/-- Everything `segRead` can do when it answers (R52): the access resolves, and the value is read there. -/
theorem segRead_eq_next {s : State} {k : SReg} {off : Word} {n : Nat} {v : Word} (h : segRead s k off n = .next v) :
    ∃ as, dataAddrs s k off n .read = .next as ∧ v = s.mem.readAll as := by
  obtain ⟨as, ha, hv⟩ := andThen_eq_next h
  cases hv
  exact ⟨as, ha, rfl⟩

/-- Everything `segWrite` can do when it answers (R52): the access resolves, outside the program, and only memory
changes. -/
theorem segWrite_eq_next {s t : State} {k : SReg} {off : Word} {n : Nat} {v : Word}
    (h : segWrite s k off n v = .next t) :
    ∃ as, dataAddrs s k off n .write = .next as ∧ as.any (inRegions s.program) = false ∧
      t = { s with mem := s.mem.writeAll as v } := by
  obtain ⟨as, ha, hs⟩ := andThen_eq_next h
  obtain ⟨hp, ht⟩ := storeAt_eq_next hs
  exact ⟨as, ha, hp, ht⟩

/-- Where no byte faults, every byte has its physical address. -/
theorem filterMap_physical_length {s : State} {kind : AccessKind} {user : Bool} {las : List Word}
    (h : las.filterMap (pageFault? s kind user) = []) : (las.filterMap (physical? s kind user)).length = las.length := by
  induction las with
  | nil => rfl
  | cons la las ih =>
    cases ht : s.translate kind user la with
    | phys a => simp_all [pageFault?, physical?]
    | pageFault c => simp [pageFault?, ht] at h

/-- With the identity translation the physical addresses are the linear ones (R62). -/
theorem filterMap_identity {s : State} (kind : AccessKind) (user : Bool) (las : List Word)
    (h : s.mode = .real ∨ s.pagingOn = false) :
    las.filterMap (pageFault? s kind user) = [] ∧ las.filterMap (physical? s kind user) = las.map BitVec.toNat := by
  induction las with
  | nil => exact ⟨rfl, rfl⟩
  | cons la las ih => simp [pageFault?, physical?, translate_identity kind user la h, ih.1, ih.2]

@[simp] theorem byteAddrs_length (wide : Bool) (la : Word) (n : Nat) : (byteAddrs wide la n).length = n := by
  simp [byteAddrs]

/-- Everything `dataAddrs` can do when it answers (R52): no check fails, and each of the `n` bytes has its address. -/
theorem dataAddrs_eq_next {s : State} {k : SReg} {off : Word} {n : Nat} {kind : AccessKind} {as : List Nat}
    (h : dataAddrs s k off n kind = .next as) :
    segFault s k off n kind = none ∧
      canonicalFault s k (byteAddrs s.wideLinear (linearAddr s k off) n) = none ∧
      alignFaults s (linearAddr s k off) n = [] ∧ as.length = n ∧ as.any (inRegions s.devices) = false := by
  obtain ⟨h1, h⟩ := guardFault_eq_next h
  obtain ⟨h2, h⟩ := guardFault_eq_next h
  obtain ⟨h3, h4, h5, h6⟩ := resolve_eq_next h
  exact ⟨h1, h2, h3, by rw [h5, filterMap_physical_length h4, byteAddrs_length], h6⟩

/-- Without LOCK the encoding raises nothing: no instruction is then longer than 15 bytes (R100). -/
theorem encodingFault_unlocked {s : State} {i : Instr} (h : i.prefixes.lock = false) : encodingFault s i = none := by
  have hl := (Laws.LengthBounds.all i).2.2 h
  have hn : ¬ Config.maxInsnLen < i.length := by
    simp only [Config.maxInsnLen]
    omega
  simp [encodingFault, h, hn]

/-- `pc` after a MOV outside `Long64`, as a number (R25). -/
theorem nextPc_toNat {s : State} (len : Nat) (h : s.mode ≠ .long64) :
    (nextPc s len).toNat = (s.rip.toNat + len) % 2 ^ 32 := by
  cases hm : s.mode <;> simp_all [nextPc, wrapLinear] <;> omega

/-! ## General registers (R23) -/

/-- Everything `regWrite` can do: one register is written, and at most one free value is used. -/
theorem regWrite_cases (s : State) (n : BitVec 4) (w : Width) (rex : Bool) (v : Word) :
    (∃ i x, regWrite s n w rex v = s.setX i x) ∨ (∃ x, regWrite s n w rex v = s.draw.2.setX n x) := by
  unfold regWrite
  cases w with
  | w8 => dsimp only; split <;> exact .inl ⟨_, _, rfl⟩
  | w16 => exact .inl ⟨_, _, rfl⟩
  | w32 =>
    dsimp only
    split
    · exact .inl ⟨_, _, rfl⟩
    · exact .inr ⟨_, rfl⟩
  | w64 => exact .inl ⟨_, _, rfl⟩

/-! ## LoadSeg (R148 to R156) -/

/-- Everything `loadSeg` can do when it answers: the register is written in one of the ways of R149, R150 and R155,
the last after the accessed bit. -/
theorem loadSeg_cases {s t : State} {k : SReg} {sel : BitVec 16} (h : loadSeg s k sel = .next t) :
    (s.mode = .real ∧ t = loadReal s k sel) ∨ (s.mode = .v86 ∧ t = loadV86 s k sel) ∨
      (s.mode ≠ .real ∧ s.mode ≠ .v86 ∧ isNull sel = true ∧ nullAllowed s k sel = true ∧ t = loadNull s k sel) ∨
      (s.mode ≠ .real ∧ s.mode ≠ .v86 ∧ isNull sel = false ∧ ∃ d u, readDesc s k sel = .next d ∧
        descFault s k sel d = none ∧ setAccessedBit s sel d = .next u ∧ t = loadFromDesc u k sel d) := by
  unfold loadSeg at h
  have hdesc : ∀ {u : State}, loadDescriptor s k sel = .next u → ∃ d u', readDesc s k sel = .next d ∧
      descFault s k sel d = none ∧ setAccessedBit s sel d = .next u' ∧ u = loadFromDesc u' k sel d := by
    intro u hu
    obtain ⟨d, hd, h2⟩ := andThen_eq_next hu
    obtain ⟨hf, h3⟩ := guardFault_eq_next h2
    obtain ⟨u', hu', h4⟩ := andThen_eq_next h3
    cases h4
    exact ⟨d, u', hd, hf, hu', rfl⟩
  split at h
  · next hm =>
    cases h
    exact .inl ⟨hm, rfl⟩
  · next hm =>
    cases h
    exact .inr (.inl ⟨hm, rfl⟩)
  all_goals
    next hm =>
    split at h
    · next hn =>
      split at h
      · next ha =>
        cases h
        exact .inr (.inr (.inl ⟨by simp [hm], by simp [hm], hn, ha, rfl⟩))
      · cases h
    · next hn =>
      exact .inr (.inr (.inr ⟨by simp [hm], by simp [hm], by simpa using hn, hdesc h⟩))

/-- Everything `setAccessedBit` can do when it answers: nothing, or a store that changes only memory (R63). -/
theorem setAccessedBit_eq_next {s t : State} {sel : BitVec 16} {d : Word} (h : setAccessedBit s sel d = .next t) :
    t = s ∨ ∃ as v, resolve s [] .write false ((descAddrs s sel).drop 5 |>.take 1) = .next as ∧
      as.any (inRegions s.program) = false ∧ t = { s with mem := s.mem.writeAll as v } := by
  unfold setAccessedBit at h
  split at h
  · obtain ⟨as, ha, hs⟩ := andThen_eq_next h
    obtain ⟨hp, ht⟩ := storeAt_eq_next hs
    exact .inr ⟨as, _, ha, hp, ht⟩
  · cases h
    exact .inl rfl

/-! ## The moves -/

/-- Everything `runMove` can do when it answers: no exception of the encoding, the move, then completion. -/
theorem runMove_eq_next {i : Instr} {s t : State} {move : Res State} (h : runMove i s move = .next t) :
    encodingFault s i = none ∧ ∃ u, move = .next u ∧ t = complete u i.length false := by
  obtain ⟨hf, hm⟩ := guardFault_eq_next h
  obtain ⟨u, hu, ht⟩ := andThen_eq_next hm
  cases ht
  exact ⟨hf, u, hu, rfl⟩

/-- Everything `moveToRM` can do when it answers. -/
theorem moveToRM_eq_next {i : Instr} {w : Width} {rm : RM} {v : Word} {s t : State}
    (h : moveToRM i w rm v s = .next t) :
    ∃ u, writeRM s i.prefixes i.length w v rm = .next u ∧ t = complete u i.length false :=
  (runMove_eq_next h).2

/-- Everything `moveFromRM` can do when it answers. -/
theorem moveFromRM_eq_next {i : Instr} {w : Width} {reg : BitVec 3} {rm : RM} {s t : State}
    (h : moveFromRM i w reg rm s = .next t) :
    ∃ v, readRM s i.prefixes i.length w rm = .next v ∧
      t = complete (regWrite s (regNum i.prefixes reg) w i.prefixes.rexPresent v) i.length false := by
  obtain ⟨u, hu, ht⟩ := (runMove_eq_next h).2
  obtain ⟨v, hv, hw⟩ := andThen_eq_next hu
  cases hw
  exact ⟨v, hv, ht⟩

/-- Everything `moveFromMoffs` can do when it answers. -/
theorem moveFromMoffs_eq_next {i : Instr} {w : Width} {m : Moffs} {s t : State}
    (h : moveFromMoffs i w m s = .next t) :
    ∃ v, segRead s (moffsSeg s i.prefixes) (moffsValue m) w.bytes = .next v ∧
      t = complete (regWrite s 0 w true v) i.length false := by
  obtain ⟨u, hu, ht⟩ := (runMove_eq_next h).2
  obtain ⟨v, hv, hw⟩ := andThen_eq_next hu
  cases hw
  exact ⟨v, hv, ht⟩

/-- Everything `moveToMoffs` can do when it answers. -/
theorem moveToMoffs_eq_next {i : Instr} {w : Width} {m : Moffs} {s t : State} (h : moveToMoffs i w m s = .next t) :
    ∃ u, segWrite s (moffsSeg s i.prefixes) (moffsValue m) w.bytes (regRead s 0 w true) = .next u ∧
      t = complete u i.length false :=
  (runMove_eq_next h).2

/-- Everything `moveToOpReg` can do when it answers. -/
theorem moveToOpReg_eq_next {i : Instr} {w : Width} {r : BitVec 3} {v : Word} {s t : State}
    (h : moveToOpReg i w r v s = .next t) :
    t = complete (regWrite s (rmNum i.prefixes r) w i.prefixes.rexPresent v) i.length false := by
  obtain ⟨u, hu, ht⟩ := (runMove_eq_next h).2
  cases hu
  exact ht

/-- Everything `moveFromSreg` can do when it answers: a register or memory is written, then completion. -/
theorem moveFromSreg_eq_next {i : Instr} {o : OpSize} {reg : BitVec 3} {rm : RM} {s t : State}
    (h : moveFromSreg i o reg rm s = .next t) :
    encodingFault s i = none ∧ i.prefixes.r = false ∧ ∃ k, sregOfField reg = some k ∧
      ((∃ n, rm = .reg n ∧ t = complete (writeSelReg s i.prefixes o n (s.sreg k).sel) i.length false) ∨
       (∃ m u, rm = .mem m ∧
         segWrite s (memSeg s i.prefixes m) (effAddr s i.prefixes i.length m) (sregMemBytes s o)
           ((s.sreg k).sel.setWidth 64) = .next u ∧ t = complete u i.length false)) := by
  obtain ⟨hf, h⟩ := guardFault_eq_next h
  refine ⟨hf, ?_⟩
  split at h
  · cases h
  · next hr =>
    refine ⟨by simpa using hr, ?_⟩
    split at h
    · cases h
    · next k hk =>
      refine ⟨k, hk, ?_⟩
      obtain ⟨u, hu, ht⟩ := andThen_eq_next h
      cases ht
      cases rm with
      | reg n =>
        cases hu
        exact .inl ⟨n, rfl, rfl⟩
      | mem m => exact .inr ⟨m, u, rfl, hu, rfl⟩

/-- Everything `readDesc` can do when it answers: no test before the read fails, and the eight bytes resolve (R63, R151). -/
theorem readDesc_eq_next {s : State} {k : SReg} {sel : BitVec 16} {d : Word} (h : readDesc s k sel = .next d) :
    tableFault s sel = none ∧ ∃ as, resolve s (rplFaults s k sel) .read false (descAddrs s sel) = .next as ∧
      d = s.mem.readAll as := by
  obtain ⟨hf, h⟩ := guardFault_eq_next h
  obtain ⟨as, ha, hd⟩ := andThen_eq_next h
  cases hd
  exact ⟨hf, as, ha, rfl⟩

/-- Everything `writeSelReg` can do: one register is written, after a free value has been used or not (R146). -/
theorem writeSelReg_cases (s : State) (p : Prefixes) (o : OpSize) (rm : BitVec 3) (sel : BitVec 16) :
    ∃ w v, w ≠ .w8 ∧ (writeSelReg s p o rm sel = regWrite s (rmNum p rm) w p.rexPresent v ∨
      writeSelReg s p o rm sel = regWrite s.draw.2 (rmNum p rm) w p.rexPresent v) := by
  unfold writeSelReg
  cases o with
  | o16 => exact ⟨.w16, _, by decide, .inl rfl⟩
  | o32 =>
    dsimp only
    split
    · exact ⟨.w32, _, by decide, .inl rfl⟩
    · exact ⟨.w32, _, by decide, .inr rfl⟩
  | o64 => exact ⟨.w64, _, by decide, .inl rfl⟩

/-- Everything `moveToSreg` can do when it answers: the selector is read, `LoadSeg` runs, then completion; the register
is not CS (R145). -/
theorem moveToSreg_eq_next {i : Instr} {o : OpSize} {reg : BitVec 3} {rm : RM} {s t : State}
    (h : moveToSreg i o reg rm s = .next t) :
    encodingFault s i = none ∧ i.prefixes.r = false ∧ ∃ k sel u, sregOfField reg = some k ∧ k ≠ .cs ∧
      readSel s i.prefixes i.length o rm = .next sel ∧ loadSeg s k sel = .next u ∧
      t = completeLoad s.ssInhibit k u i.length := by
  obtain ⟨hf, h⟩ := guardFault_eq_next h
  refine ⟨hf, ?_⟩
  split at h
  · cases h
  · next hr =>
    refine ⟨by simpa using hr, ?_⟩
    split at h
    · cases h
    · cases h
    · next k hcs hk =>
      obtain ⟨sel, hsel, h⟩ := andThen_eq_next h
      obtain ⟨u, hu, h⟩ := andThen_eq_next h
      cases h
      exact ⟨k, sel, u, hk, hcs, hsel, hu, rfl⟩

end Sys2Proof.Machine
end

