-- ==== Sys2Proof/Laws/Step.lean ====
section
/-! SUPPORT. Everything a fetch and a step can do. -/

namespace Sys2Proof.Machine

/-- A byte that is fetched is reached and belongs to the program (R70, D16). -/
theorem fetchAddr_eq_some {s : State} {i a : Nat} (h : fetchAddr s i = some a) :
    fetchPhys s i = some a ∧ inRegions s.program a = true := by
  simpa [fetchAddr, Option.filter_eq_some_iff] using h

/-- A byte that is reached does not belong to a device (R65, D34). -/
theorem fetchPhys_eq_some {s : State} {i a : Nat} (h : fetchPhys s i = some a) :
    fetchable s (fetchOffset s i) = true ∧ inRegions s.devices a = false := by
  unfold fetchPhys at h
  split at h
  · next hf =>
    obtain ⟨-, hd⟩ := Option.filter_eq_some_iff.mp h
    exact ⟨hf, by simpa using hd⟩
  · cases h

/-- Everything `step` can do when it answers a next state: it executed the instruction its bytes decode to (D1). -/
theorem step_eq_next {s t : State} (h : step s = .next t) :
    ∃ i rest, decode s.ctx (fetchBytes s) = .ok (i, rest) ∧ exec i s = .next t := by
  unfold step at h
  split at h
  · next i rest hd => exact ⟨i, rest, hd, h⟩
  · cases h

/-- Everything `step` can do when it faults: the instruction it executed did (R223). -/
theorem step_eq_fault {s : State} {f : Fault} (h : step s = .fault f) :
    ∃ i rest, decode s.ctx (fetchBytes s) = .ok (i, rest) ∧ exec i s = .fault f := by
  unfold step at h
  split at h
  · next i rest hd => exact ⟨i, rest, hd, h⟩
  · cases h

/-- Bytes that do not decode refuse the step (D28). -/
theorem step_of_error {s : State} {why : Reject} (h : decode s.ctx (fetchBytes s) = .error why) :
    step s = .refused (refusalOf s why) := by
  simp [step, h]

end Sys2Proof.Machine
end

