-- ==== Sys2Proof/Tests/Slice0.lean ====
section
/-! SUPPORT. Tests of the model on fixed values, and for every statement with hypotheses a state that meets them. The
expected values are those of the vectors of spec file 95, or worked out by hand from the rules named. -/

namespace Sys2Proof.Tests

open Sys2Proof Sys2Proof.Machine

set_option maxRecDepth 4000

/-! ## Small states -/

/-- The parameters the vectors of file 95 assume. -/
def params : Impl := ⟨true, .zero, .va48, .both, .two, true, .zero⟩

/-- A flat writable data segment. -/
def flat (sel : BitVec 16) : SegReg := ⟨sel, 0, 0xFFFFFFFF, ⟨3, true, 0, true, false, false, true, true⟩, true⟩

/-- A flat readable code segment. -/
def code (sel : BitVec 16) (l db : Bool) : SegReg := ⟨sel, 0, 0xFFFFFFFF, ⟨0xB, true, 0, true, false, l, db, true⟩, true⟩

/-- A 64 KB data segment of `Real` and `V86`. -/
def small (sel : BitVec 16) (base : Word) : SegReg := ⟨sel, base, 0xFFFF, ⟨3, true, 3, true, false, false, false, false⟩, true⟩

/-- `Long64`, CPL 0, paging off. -/
def long : State :=
  { State.reset with
    rip := 0x400000
    cr0 := 1
    efer := 0x400
    seg := ⟨flat 0x2B, code 0x33 true false, flat 0x2B, flat 0x2B, flat 0x2B, flat 0x2B⟩
    gdtr := ⟨0x1000, 0x3F⟩
    ldtr := ⟨0, 0, 0, false⟩
    impl := params }

/-- `Prot` with a 32-bit code segment, CPL 0, paging off. -/
def prot : State :=
  { long with
    rip := 0x100000
    efer := 0
    seg := ⟨flat 0x10, code 8 false true, flat 0x10, flat 0x23, flat 0x10, flat 0x10⟩ }

/-- `Compat` with a 32-bit code segment. -/
def compat : State := { prot with efer := 0x400 }

/-- `V86`. -/
def v86 : State :=
  { prot with
    rip := 0x100
    rflags := 0x20002
    cpl := 3
    seg := ⟨small 0 0, small 0 0, small 0 0, small 0x1000 0x10000, small 0 0, small 0 0⟩ }

/-- `Real`, CS and DS at 0, SS at 20000H. -/
def real : State :=
  { State.reset with
    rip := 0x7C00
    seg := ⟨small 0 0, small 0 0, small 0x2000 0x20000, small 0 0, small 0 0, small 0 0⟩
    impl := params }

/-- A state with some registers set. -/
def regs (s : State) (l : List (BitVec 4 × Word)) : State := l.foldl (fun t x => t.setX x.1 x.2) s

/-- A state with bytes stored from an address on. -/
def bytesAt (s : State) (a : Nat) (bs : List Byte) : State :=
  { s with mem := (bs.zipIdx a).foldl (fun m x => m.write x.2 x.1) s.mem }

/-- A state whose program is the sixteen bytes at `pc`, the given ones first (D16). -/
def launch (s : State) (bs : List Byte) : State :=
  { bytesAt s s.rip.toNat bs with program := [⟨s.rip.toNat, 16⟩] }

/-- A state with one data segment register replaced. -/
def withDs (s : State) (r : SegReg) : State := { s with seg := { s.seg with ds := r } }

/-! ## Observing one execution -/

/-- Decode the bytes and execute them. -/
def run (s : State) (bs : List Byte) : Res State :=
  match decode s.ctx bs with
  | .ok (i, _) => exec i s
  | .error why => .refused (refusalOf s why)

/-- The value of a result that is one. -/
def nextOf {α : Type} : Res α → Option α
  | .next a => some a
  | .fault _ => none
  | .refused _ => none

/-- The exception of a result that is one. -/
def faultOf {α : Type} : Res α → Option Fault
  | .fault f => some f
  | .next _ => none
  | .refused _ => none

/-- The refusal of a result that is one. -/
def refusedOf {α : Type} : Res α → Option Refusal
  | .refused f => some f
  | .next _ => none
  | .fault _ => none

theorem eq_next {α : Type} {r : Res α} {a : α} (h : nextOf r = some a) : r = .next a := by
  cases r <;> simp_all [nextOf]

theorem eq_fault {α : Type} {r : Res α} {f : Fault} (h : faultOf r = some f) : r = .fault f := by
  cases r <;> simp_all [faultOf]

/-- A register after the bytes were executed. -/
def gprAfter (s : State) (bs : List Byte) (i : BitVec 4) : Option Word := (nextOf (run s bs)).map (·.getX i)

/-- Bytes of memory after the bytes were executed. -/
def memAfter (s : State) (bs : List Byte) (a n : Nat) : Option (List Byte) :=
  (nextOf (run s bs)).map fun t => (List.range n).map fun j => t.mem.read (a + j)

/-- A segment register after the bytes were executed. -/
def sregAfter (s : State) (bs : List Byte) (k : SReg) : Option SegReg := (nextOf (run s bs)).map (·.sreg k)

/-- No prefixes but a REX. -/
def rexP (w r x b : Bool) : Prefixes := ⟨false, none, false, false, some ⟨w, r, x, b⟩⟩

/-- No prefixes but 66H. -/
def opszP : Prefixes := ⟨false, none, true, false, none⟩

/-- No prefixes but LOCK. -/
def lockP : Prefixes := ⟨true, none, false, false, none⟩


/-! ## Decoding: bytes of file 95, section 3.1, and of R101 written out -/

theorem test_decode_movRm8R8 : decode ⟨.long64, false⟩ [0x88, 0xE7] = .ok (.movRm8R8 .empty 4 (.reg 7), []) := by decide
theorem test_decode_movRm8R8Rex : decode ⟨.long64, false⟩ [0x40, 0x88, 0xE7] = .ok (.movRm8R8Rex (rexP false false false false) 4 (.reg 7), []) := by decide
theorem test_decode_movRm16R16 : decode ⟨.long64, false⟩ [0x66, 0x89, 0xD8] = .ok (.movRm16R16 opszP 3 (.reg 0), []) := by decide
theorem test_decode_movRm32R32 : decode ⟨.prot, true⟩ [0x89, 0xD8] = .ok (.movRm32R32 .empty 3 (.reg 0), []) := by decide
theorem test_decode_movRm64R64 : decode ⟨.long64, false⟩ [0x4D, 0x89, 0xC8] = .ok (.movRm64R64 (rexP true true false true) 1 (.reg 0), []) := by decide
theorem test_decode_movR8Rm8 : decode ⟨.long64, false⟩ [0x8A, 0x07] = .ok (.movR8Rm8 .empty 0 (.mem (.based 7 .none)), []) := by decide
theorem test_decode_movR8Rm8Rex : decode ⟨.long64, false⟩ [0x45, 0x8A, 0x04, 0x24] = .ok (.movR8Rm8Rex (rexP false true false true) 0 (.mem (.sib 0 4 4 .none)), []) := by decide
theorem test_decode_movR16Rm16 : decode ⟨.real, false⟩ [0x8B, 0x06, 0x34, 0x12] = .ok (.movR16Rm16 .empty 0 (.mem (.abs16 0x1234)), []) := by decide
theorem test_decode_movR32Rm32 : decode ⟨.real, false⟩ [0x66, 0x67, 0x8B, 0x04, 0x8B] = .ok (.movR32Rm32 ⟨false, none, true, true, none⟩ 0 (.mem (.sib 2 1 3 .none)), []) := by decide
theorem test_decode_movR32Rm32_based : decode ⟨.prot, true⟩ [0x8B, 0x45, 0xFC] = .ok (.movR32Rm32 .empty 0 (.mem (.based 5 (.short 0xFC))), []) := by decide
theorem test_decode_movR32Rm32_sibAbs : decode ⟨.prot, true⟩ [0x8B, 0x04, 0x8D, 0x00, 0x10, 0x00, 0x00] = .ok (.movR32Rm32 .empty 0 (.mem (.sibAbs 2 1 0x1000)), []) := by decide
theorem test_decode_movR32Rm32_based16 : decode ⟨.prot, true⟩ [0x67, 0x8B, 0x46, 0xFE] = .ok (.movR32Rm32 ⟨false, none, false, true, none⟩ 0 (.mem (.based16 .bp (.short 0xFE))), []) := by decide
theorem test_decode_movR64Rm64 : decode ⟨.long64, false⟩ [0x65, 0x48, 0x8B, 0x04, 0x25, 0x28, 0x00, 0x00, 0x00] = .ok (.movR64Rm64 ⟨false, some .gs, false, false, some ⟨true, false, false, false⟩⟩ 0 (.mem (.sibAbs 0 4 0x28)), []) := by decide
theorem test_decode_movR64Rm64_rip : decode ⟨.long64, false⟩ [0x48, 0x8B, 0x05, 0x10, 0x00, 0x00, 0x00] = .ok (.movR64Rm64 (rexP true false false false) 0 (.mem (.disp32 0x10)), []) := by decide
theorem test_decode_movRm16Sreg : decode ⟨.long64, false⟩ [0x66, 0x8C, 0xD8] = .ok (.movRm16Sreg opszP 3 (.reg 0), []) := by decide
theorem test_decode_movRm64Sreg : decode ⟨.long64, false⟩ [0x48, 0x8C, 0xD8] = .ok (.movRm64Sreg (rexP true false false false) 3 (.reg 0), []) := by decide
theorem test_decode_movSregRm16 : decode ⟨.long64, false⟩ [0x41, 0x8E, 0xD8] = .ok (.movSregRm16 (rexP false false false true) 3 (.reg 0), []) := by decide
theorem test_decode_movSregRm64 : decode ⟨.long64, false⟩ [0x48, 0x8E, 0xD8] = .ok (.movSregRm64 (rexP true false false false) 3 (.reg 0), []) := by decide
theorem test_decode_movAlMoffs8 : decode ⟨.prot, true⟩ [0xA0, 0x78, 0x56, 0x34, 0x12] = .ok (.movAlMoffs8 .empty (.off32 0x12345678), []) := by decide
theorem test_decode_movAlMoffs8RexW : decode ⟨.long64, false⟩ [0x48, 0xA0, 0x88, 0x77, 0x66, 0x55, 0x44, 0x33, 0x22, 0x11] = .ok (.movAlMoffs8RexW (rexP true false false false) (.off64 0x1122334455667788), []) := by decide
theorem test_decode_movAxMoffs16 : decode ⟨.real, false⟩ [0xA1, 0x34, 0x12] = .ok (.movAxMoffs16 .empty (.off16 0x1234), []) := by decide
theorem test_decode_movEaxMoffs32 : decode ⟨.long64, false⟩ [0x67, 0xA1, 0x78, 0x56, 0x34, 0x12] = .ok (.movEaxMoffs32 ⟨false, none, false, true, none⟩ (.off32 0x12345678), []) := by decide
theorem test_decode_movRaxMoffs64 : decode ⟨.long64, false⟩ [0x48, 0xA1, 0x00, 0x30, 0x00, 0x00, 0x00, 0x00, 0x00, 0x00] = .ok (.movRaxMoffs64 (rexP true false false false) (.off64 0x3000), []) := by decide
theorem test_decode_movMoffs8Al : decode ⟨.prot, true⟩ [0x26, 0xA2, 0x78, 0x56, 0x34, 0x12] = .ok (.movMoffs8Al ⟨false, some .es, false, false, none⟩ (.off32 0x12345678), []) := by decide
theorem test_decode_movMoffs8AlRexW : decode ⟨.long64, false⟩ [0x48, 0xA2, 0x00, 0x20, 0x00, 0x00, 0x00, 0x00, 0x00, 0x00] = .ok (.movMoffs8AlRexW (rexP true false false false) (.off64 0x2000), []) := by decide
theorem test_decode_movMoffs16Ax : decode ⟨.prot, true⟩ [0x66, 0xA3, 0x00, 0x10, 0x00, 0x00] = .ok (.movMoffs16Ax opszP (.off32 0x1000), []) := by decide
theorem test_decode_movMoffs32Eax : decode ⟨.prot, true⟩ [0xA3, 0x00, 0x10, 0x00, 0x00] = .ok (.movMoffs32Eax .empty (.off32 0x1000), []) := by decide
theorem test_decode_movMoffs64Rax : decode ⟨.long64, false⟩ [0x48, 0xA3, 0x00, 0x40, 0x00, 0x00, 0x00, 0x00, 0x00, 0x00] = .ok (.movMoffs64Rax (rexP true false false false) (.off64 0x4000), []) := by decide
theorem test_decode_movR8Imm8 : decode ⟨.long64, false⟩ [0xB4, 0x7F] = .ok (.movR8Imm8 .empty 4 0x7F, []) := by decide
theorem test_decode_movR8Imm8Rex : decode ⟨.long64, false⟩ [0x41, 0xB0, 0x7F] = .ok (.movR8Imm8Rex (rexP false false false true) 0 0x7F, []) := by decide
theorem test_decode_movR16Imm16 : decode ⟨.long64, false⟩ [0x66, 0xB8, 0xCD, 0xAB] = .ok (.movR16Imm16 opszP 0 0xABCD, []) := by decide
theorem test_decode_movR32Imm32 : decode ⟨.prot, true⟩ [0xBC, 0x00, 0x80, 0x00, 0x00] = .ok (.movR32Imm32 .empty 4 0x8000, []) := by decide
theorem test_decode_movR64Imm64 : decode ⟨.long64, false⟩ [0x49, 0xBF, 0x88, 0x77, 0x66, 0x55, 0x44, 0x33, 0x22, 0x11] = .ok (.movR64Imm64 (rexP true false false true) 7 0x1122334455667788, []) := by decide
theorem test_decode_movRm8Imm8 : decode ⟨.long64, false⟩ [0xC6, 0x44, 0x24, 0xFF, 0x80] = .ok (.movRm8Imm8 .empty (.mem (.sib 0 4 4 (.short 0xFF))) 0x80, []) := by decide
theorem test_decode_movRm8Imm8Rex : decode ⟨.long64, false⟩ [0x40, 0xC6, 0xC4, 0x01] = .ok (.movRm8Imm8Rex (rexP false false false false) (.reg 4) 1, []) := by decide
theorem test_decode_movRm16Imm16 : decode ⟨.long64, false⟩ [0x66, 0x41, 0xC7, 0x00, 0x34, 0x12] = .ok (.movRm16Imm16 ⟨false, none, true, false, some ⟨false, false, false, true⟩⟩ (.mem (.based 0 .none)) 0x1234, []) := by decide
theorem test_decode_movRm32Imm32 : decode ⟨.prot, true⟩ [0xC7, 0x45, 0xFC, 0x2A, 0x00, 0x00, 0x00] = .ok (.movRm32Imm32 .empty (.mem (.based 5 (.short 0xFC))) 0x2A, []) := by decide
theorem test_decode_movRm64Imm32 : decode ⟨.long64, false⟩ [0x48, 0xC7, 0xC0, 0xFF, 0xFF, 0xFF, 0xFF] = .ok (.movRm64Imm32 (rexP true false false false) (.reg 0) 0xFFFFFFFF, []) := by decide

theorem test_refuse_group : decode ⟨.prot, true⟩ [0xC6, 0xC8, 0x01] = .error (.notMovGroup 0xC6 1) := by decide
theorem test_refuse_rep : decode ⟨.long64, false⟩ [0xF3, 0x89, 0xD8] = .error .repPrefix := by decide
theorem test_refuse_rex_outside_long64 : decode ⟨.prot, true⟩ [0x48, 0x89, 0xD8] = .error (.notMov 0x48) := by decide
theorem test_refuse_repeated_group : decode ⟨.prot, true⟩ [0x66, 0x66, 0x89, 0xD8] = .error .prefixArrangement := by decide
theorem test_refuse_rex_not_last : decode ⟨.long64, false⟩ [0x48, 0x66, 0x89, 0xD8] = .error .prefixArrangement := by decide
theorem test_refuse_truncated : decode ⟨.long64, false⟩ [0x48, 0xB8, 1, 2] = .error .truncated := by decide
theorem test_tableWord : decodeTableWord 8 0xB8 = some (.movR16Imm16 .empty 0 0) := by decide

/-! ## Well-formedness: one term refused by each check -/

theorem test_illFormed_rex_outside_long64 : Instr.wf ⟨.prot, true⟩ (.movRm8R8Rex (rexP false false false false) 0 (.reg 0)) = false := by decide
theorem test_illFormed_rex_on_row_without : Instr.wf ⟨.long64, false⟩ (.movRm8R8 (rexP false false false false) 0 (.reg 0)) = false := by decide
theorem test_illFormed_no_rex_on_row_with : Instr.wf ⟨.long64, false⟩ (.movR8Rm8Rex .empty 0 (.reg 0)) = false := by decide
theorem test_illFormed_byte_load_rex : Instr.wf ⟨.long64, false⟩ (.movR8Rm8 (rexP false false false false) 0 (.reg 0)) = false := by decide
theorem test_illFormed_opsize16 : Instr.wf ⟨.long64, false⟩ (.movRm16R16 .empty 0 (.reg 0)) = false := by decide
theorem test_illFormed_opsize32 : Instr.wf ⟨.prot, true⟩ (.movR32Rm32 opszP 0 (.reg 0)) = false := by decide
theorem test_illFormed_opsize64 : Instr.wf ⟨.long64, false⟩ (.movRm64R64 .empty 0 (.reg 0)) = false := by decide
theorem test_illFormed_sreg_store_w : Instr.wf ⟨.long64, false⟩ (.movRm16Sreg (rexP true false false false) 0 (.reg 0)) = false := by decide
theorem test_illFormed_sreg_load_not_w : Instr.wf ⟨.long64, false⟩ (.movSregRm64 .empty 0 (.reg 0)) = false := by decide
theorem test_illFormed_moffs_w : Instr.wf ⟨.long64, false⟩ (.movAlMoffs8 (rexP true false false false) (.off64 0)) = false := by decide
theorem test_illFormed_moffs_not_w : Instr.wf ⟨.long64, false⟩ (.movMoffs8AlRexW .empty (.off64 0)) = false := by decide
theorem test_illFormed_moffs_width : Instr.wf ⟨.prot, true⟩ (.movMoffs32Eax .empty (.off64 0)) = false := by decide
theorem test_illFormed_based16_in_32 : Instr.wf ⟨.prot, true⟩ (.movR32Rm32 .empty 0 (.mem (.based16 .bx .none))) = false := by decide
theorem test_illFormed_abs16_in_32 : Instr.wf ⟨.prot, true⟩ (.movR32Rm32 .empty 0 (.mem (.abs16 0))) = false := by decide
theorem test_illFormed_bp_without_disp : Instr.wf ⟨.real, false⟩ (.movR16Rm16 .empty 0 (.mem (.based16 .bp .none))) = false := by decide
theorem test_illFormed_based_in_16 : Instr.wf ⟨.real, false⟩ (.movR16Rm16 .empty 0 (.mem (.based 0 .none))) = false := by decide
theorem test_illFormed_disp32_in_16 : Instr.wf ⟨.real, false⟩ (.movR16Rm16 .empty 0 (.mem (.disp32 0))) = false := by decide
theorem test_illFormed_based_rm4 : Instr.wf ⟨.prot, true⟩ (.movR32Rm32 .empty 0 (.mem (.based 4 .none))) = false := by decide
theorem test_illFormed_based_rm5_without_disp : Instr.wf ⟨.prot, true⟩ (.movR32Rm32 .empty 0 (.mem (.based 5 .none))) = false := by decide
theorem test_illFormed_sib_base5_without_disp : Instr.wf ⟨.prot, true⟩ (.movR32Rm32 .empty 0 (.mem (.sib 0 0 5 .none))) = false := by decide
theorem test_illFormed_sib_in_16 : Instr.wf ⟨.real, false⟩ (.movR16Rm16 .empty 0 (.mem (.sib 0 0 0 .none))) = false := by decide
theorem test_illFormed_sibAbs_in_16 : Instr.wf ⟨.real, false⟩ (.movR16Rm16 .empty 0 (.mem (.sibAbs 0 0 0))) = false := by decide

/-! ## One step of each instruction: file 95, sections 3.2 to 3.7 -/

theorem test_movRm8R8_ah_to_bh : gprAfter (regs long [(0, 0x1234), (3, 0x0)]) [0x88, 0xE7] 3 = some 0x1200 := by decide
theorem test_movRm8R8_store_dh : memAfter (regs long [(3, 0x1000), (2, 0x12FE)]) [0x88, 0x33] 0x1000 1 = some [0x12] := by decide
theorem test_movRm8R8Rex_spl_to_dil : gprAfter (regs long [(4, 0x7077), (7, 0xFFFFFFFFFFFFFF00)]) [0x40, 0x88, 0xE7] 7 = some 0xFFFFFFFFFFFFFF77 := by decide
theorem test_movRm16R16_keeps_high : gprAfter (regs long [(0, 0xFFFFFFFFFFFFFFFF), (3, 0x1234)]) [0x66, 0x89, 0xD8] 0 = some 0xFFFFFFFFFFFF1234 := by decide
theorem test_movRm32R32_clears_high : gprAfter (regs long [(0, 0xFFFFFFFF00000001)]) [0x89, 0xC0] 0 = some 0x1 := by decide
theorem test_movRm32R32_readonly_gp : faultOf (run (withDs prot { flat 0x20 with attr := { (flat 0x20).attr with type := 1 } }) [0x89, 0x03]) = some (.gp .zero) := by decide
theorem test_movRm64R64_r9_to_r8 : gprAfter (regs long [(9, 0x0123456789ABCDEF)]) [0x4D, 0x89, 0xC8] 8 = some 0x0123456789ABCDEF := by decide
theorem test_movR8Rm8_dh_from_memory : gprAfter (bytesAt (regs long [(3, 0x1000), (2, 0xFFFFFFFF1234FFFE)]) 0x1003 [0x12]) [0x8A, 0x73, 0x03] 2 = some 0xFFFFFFFF123412FE := by decide
theorem test_movR8Rm8Rex_r8b_from_r12 : gprAfter (bytesAt (regs long [(12, 0x1000), (8, 0xFFFFFFFFFFFFFFFF)]) 0x1000 [0x5A]) [0x45, 0x8A, 0x04, 0x24] 8 = some 0xFFFFFFFFFFFFFF5A := by decide
theorem test_movR16Rm16_bp_uses_ss : gprAfter (bytesAt (regs real [(5, 0x100)]) 0x200FE [0xCD, 0xAB]) [0x8B, 0x46, 0xFE] 0 = some 0xABCD := by decide
theorem test_movR16Rm16_wraps_at_16_bits : gprAfter (bytesAt (regs real [(5, 0xFFF8), (7, 0x10)]) 0x20018 [0x11, 0x22]) [0x8B, 0x43, 0x10] 0 = some 0x2211 := by decide
theorem test_movR32Rm32_stack : gprAfter (bytesAt (regs long [(4, 0x7000), (0, 0xFFFFFFFFFFFFFFFF)]) 0x7008 [0x78, 0x56, 0x34, 0x12]) [0x8B, 0x44, 0x24, 0x08] 0 = some 0x12345678 := by decide
theorem test_movR32Rm32_disp32_sign : gprAfter (bytesAt (regs long [(0, 0x80001000)]) 0x1000 [0x11, 0x22, 0x33, 0x44]) [0x8B, 0x80, 0x00, 0x00, 0x00, 0x80] 0 = some 0x44332211 := by decide
theorem test_movR64Rm64_rip_relative : gprAfter (bytesAt long 0x400017 [1, 2, 3, 4, 5, 6, 7, 8]) [0x48, 0x8B, 0x05, 0x10, 0x00, 0x00, 0x00] 0 = some 0x0807060504030201 := by decide
theorem test_movR64Rm64_noncanonical_end : faultOf (run (regs long [(3, 0x00007FFFFFFFFFF9)]) [0x48, 0x8B, 0x03]) = some (.gp .zero) := by decide
theorem test_movRm16Sreg_32 : gprAfter (regs long [(0, 0xFFFFFFFFFFFFFFFF)]) [0x8C, 0xD8] 0 = some 0x2B := by decide
theorem test_movRm16Sreg_memory : memAfter (bytesAt prot 0x2000 [0xFF, 0xFF, 0xFF, 0xFF]) [0x8C, 0x1D, 0x00, 0x20, 0x00, 0x00] 0x2000 4 = some [0x23, 0x00, 0xFF, 0xFF] := by decide
theorem test_movRm64Sreg_cs : gprAfter (regs long [(0, 0xFFFFFFFFFFFFFFFF)]) [0x48, 0x8C, 0xC8] 0 = some 0x33 := by decide

/-- Entries 2 (DPL 0 data) and 6 (the same, not present) of the table of file 95, section 3.5. -/
def gdt (s : State) : State :=
  bytesAt (bytesAt s 0x1010 [0xFF, 0xFF, 0, 0, 0, 0x92, 0xCF, 0]) 0x1030 [0xFF, 0xFF, 0, 0, 0, 0x12, 0xCF, 0]

theorem test_movSregRm16_ds_load : sregAfter (regs (gdt prot) [(0, 0x10)]) [0x8E, 0xD8] .ds = some (flat 0x10) := by decide
theorem test_movSregRm16_sets_accessed : memAfter (regs (gdt prot) [(0, 0x10)]) [0x8E, 0xD8] 0x1014 3 = some [0, 0x93, 0xCF] := by
  decide
theorem test_movSregRm64_null_ss : (sregAfter long [0x48, 0x8E, 0xD0] .ss).map (fun r => (r.sel, r.usable)) = some (0, false) := by
  decide
theorem test_movSregRm64_es_load : sregAfter (regs (gdt long) [(0, 0x10)]) [0x48, 0x8E, 0xC0] .es = some (flat 0x10) := by decide

theorem test_movAlMoffs8 : gprAfter (bytesAt (regs prot [(0, 0x11223344)]) 0x12345678 [0x5A]) [0xA0, 0x78, 0x56, 0x34, 0x12] 0 = some 0x1122335A := by decide
theorem test_movAlMoffs8RexW : gprAfter (bytesAt (regs long [(0, 0x11223344)]) 0x3000 [0x5A]) [0x48, 0xA0, 0x00, 0x30, 0x00, 0x00, 0x00, 0x00, 0x00, 0x00] 0 = some 0x1122335A := by decide
theorem test_movAxMoffs16 : gprAfter (bytesAt (regs prot [(0, 0x11223344)]) 0x1000 [0xCD, 0xAB, 0x99, 0x99]) [0x66, 0xA1, 0x00, 0x10, 0x00, 0x00] 0 = some 0x1122ABCD := by decide
theorem test_movEaxMoffs32_clears_high : gprAfter (bytesAt (regs long [(0, 0xFFFFFFFFFFFFFFFF)]) 0x3000 [0xEF, 0xCD, 0xAB, 0x89, 0x67]) [0xA1, 0x00, 0x30, 0x00, 0x00, 0x00, 0x00, 0x00, 0x00] 0 = some 0x89ABCDEF := by decide
theorem test_movAxMoffs16_beyond_limit : faultOf (run (real) [0x67, 0xA1, 0x78, 0x56, 0x34, 0x12]) = some (.gp .absent) := by decide
theorem test_movRaxMoffs64 : gprAfter (bytesAt long 0x3000 [0xEF, 0xCD, 0xAB, 0x89, 0x67, 0x45, 0x23, 0x01]) [0x48, 0xA1, 0x00, 0x30, 0x00, 0x00, 0x00, 0x00, 0x00, 0x00] 0 = some 0x0123456789ABCDEF := by decide
theorem test_movMoffs8Al : memAfter (regs prot [(0, 0x41)]) [0x26, 0xA2, 0x78, 0x56, 0x34, 0x12] 0x12345678 1 = some [0x41] := by decide
theorem test_movMoffs8AlRexW : memAfter (regs long [(0, 0x1234)]) [0x48, 0xA2, 0x00, 0x20, 0x00, 0x00, 0x00, 0x00, 0x00, 0x00] 0x2000 2 = some [0x34, 0x00] := by decide
theorem test_movMoffs16Ax : memAfter (regs prot [(0, 0xDEADBEEF)]) [0x66, 0xA3, 0x00, 0x10, 0x00, 0x00] 0x1000 4 = some [0xEF, 0xBE, 0x00, 0x00] := by decide
theorem test_movMoffs32Eax : memAfter (regs prot [(0, 0xDEADBEEF)]) [0xA3, 0x00, 0x10, 0x00, 0x00] 0x1000 5 = some [0xEF, 0xBE, 0xAD, 0xDE, 0x00] := by decide
theorem test_movMoffs64Rax : memAfter (regs long [(0, 0x0123456789ABCDEF)]) [0x67, 0x48, 0xA3, 0x00, 0x10, 0x00, 0x00] 0x1000 8 = some [0xEF, 0xCD, 0xAB, 0x89, 0x67, 0x45, 0x23, 0x01] := by decide
theorem test_movR8Imm8_ah : gprAfter (regs prot [(0, 0x1234ABCD)]) [0xB4, 0xEF] 0 = some 0x1234EFCD := by decide
theorem test_movR8Imm8Rex_spl : gprAfter (regs long [(4, 0x7000)]) [0x40, 0xB4, 0x7F] 4 = some 0x707F := by decide
theorem test_movR16Imm16 : gprAfter (regs long [(0, 0x12345678)]) [0x66, 0xB8, 0xCD, 0xAB] 0 = some 0x1234ABCD := by decide
theorem test_movR32Imm32_clears_high : gprAfter (regs long [(0, 0x1111111111111111)]) [0xB8, 0xFF, 0xFF, 0xFF, 0xFF] 0 = some 0xFFFFFFFF := by decide
theorem test_movR64Imm64 : gprAfter (long) [0x49, 0xBF, 0x88, 0x77, 0x66, 0x55, 0x44, 0x33, 0x22, 0x11] 15 = some 0x1122334455667788 := by decide
theorem test_movRm8Imm8_negative_disp : memAfter (regs long [(4, 0x7000)]) [0xC6, 0x44, 0x24, 0xFF, 0x80] 0x6FFF 1 = some [0x80] := by decide
theorem test_movRm8Imm8Rex_spl : gprAfter (regs long [(0, 0x0), (4, 0x7000)]) [0x40, 0xC6, 0xC4, 0x01] 4 = some 0x7001 := by decide
theorem test_movRm16Imm16 : memAfter (real) [0xC7, 0x06, 0x00, 0x20, 0x34, 0x12] 0x2000 2 = some [0x34, 0x12] := by decide
theorem test_movRm32Imm32_ebp : memAfter (regs prot [(5, 0x8000)]) [0xC7, 0x45, 0xFC, 0x2A, 0x00, 0x00, 0x00] 0x7FFC 4 = some [0x2A, 0x00, 0x00, 0x00] := by decide
theorem test_movRm64Imm32_sign_extends : memAfter (regs long [(0, 0x3000)]) [0x48, 0xC7, 0x00, 0x00, 0x00, 0x00, 0x80] 0x3000 8 = some [0x00, 0x00, 0x00, 0x80, 0xFF, 0xFF, 0xFF, 0xFF] := by decide
theorem test_movRm64Imm32_program_refused : refusedOf (run { long with program := [⟨0x400000, 11⟩] }
    [0x48, 0xC7, 0x05, 0xF5, 0xFF, 0xFF, 0xFF, 0x2A, 0, 0, 0]) = some .programStore := by decide

/-! ## Exceptions and operations: file 95, sections 3.3 and 3.5 -/

theorem test_lock_ud : faultOf (run long [0xF0, 0x89, 0x18]) = some .ud := by decide
theorem test_load_cs_ud : faultOf (run prot [0x8E, 0xC8]) = some .ud := by decide
theorem test_sreg6_ud : faultOf (run prot [0x8E, 0xF0]) = some .ud := by decide
theorem test_rexR_refused : refusedOf (run long [0x44, 0x8E, 0xD8]) = some .rexROnSreg := by decide
theorem test_ss_null_prot : faultOf (run prot [0x8E, 0xD0]) = some (.gp .zero) := by decide
theorem test_ss_rpl : faultOf (run (regs (gdt prot) [(0, 0x33)]) [0x8E, 0xD0]) = some (.gp (.selector 0x33)) := by decide
theorem test_ss_not_present : faultOf (run (regs (gdt prot) [(0, 0x30)]) [0x8E, 0xD0]) = some (.ss (.selector 0x30)) := by decide
theorem test_ds_not_present : faultOf (run (regs (gdt prot) [(0, 0x30)]) [0x8E, 0xD8]) = some (.np 0x30) := by decide
theorem test_ds_beyond_table : faultOf (run (regs (gdt prot) [(0, 0x40)]) [0x8E, 0xD8]) = some (.gp (.selector 0x40)) := by decide
theorem test_ds_no_ldt : faultOf (run (regs (gdt prot) [(0, 0x14)]) [0x8E, 0xD8]) = some (.gp (.selector 0x14)) := by decide
theorem test_priv_both : (nextOf (loadSeg (gdt prot) .ds 0x13)).isSome = true := by decide
theorem test_priv_either : faultOf (loadSeg { gdt prot with impl := { params with dataSegPrivRule := .either } } .ds 0x13) =
    some (.gp (.selector 0x13)) := by decide
theorem test_gp_pushed : (Fault.gp (.selector 0x13)).pushedCode = some 0x10 := by decide
theorem test_real_es : (nextOf (loadSeg real .es 0x1234)).map (fun t => t.seg.es.base) = some 0x12340 := by decide
theorem test_v86_ac : faultOf (run (regs { v86 with rflags := 0x60002, cr0 := 0x40001 } [(3, 1)]) [0x8B, 0x07]) = some .ac := by
  decide
theorem test_real_no_ac : (gprAfter (regs { real with rflags := 0x40002, cr0 := 0x40000 } [(3, 1)]) [0x8B, 0x07] 0).isSome = true := by
  decide
theorem test_wrap_of_offset_space : faultOf (run (regs prot [(3, 0xFFFFFFFE)]) [0x8B, 0x03]) = some (.gp .zero) := by decide
theorem test_noncanonical_ss : faultOf (run (regs long [(5, 0x0000800000000000)]) [0x3E, 0x8B, 0x45, 0x00]) = some (.ss .zero) := by
  decide
theorem test_null_ds : faultOf (run (withDs prot { flat 3 with usable := false }) [0x8B, 0x03]) = some (.gp .zero) := by decide
theorem test_ss_inhibits : (nextOf (run (regs (gdt prot) [(0, 0x10)]) [0x8E, 0xD0])).map (·.ssInhibit) = some true := by decide
theorem test_pc_wraps_in_prot : (nextOf (run { prot with rip := 0xFFFFFFFF } [0x89, 0xC0])).map (·.rip) = some 1 := by decide
theorem test_step_refuses_other_opcode : refusedOf (step (launch long [0x90])) = some (.undecodable (.notMov 0x90)) := by
  decide
theorem test_step_outside_program : refusedOf (step (bytesAt long 0x400000 [0x89, 0xD8])) = some .outsideProgram ∧
    refusedOf (step { bytesAt long 0x400000 [0x89, 0xD8] with program := [⟨0x400000, 1⟩] }) = some .outsideProgram := by decide
theorem test_step_program_exact :
    (nextOf (step { bytesAt long 0x400000 [0x89, 0xD8] with program := [⟨0x400000, 2⟩] })).isSome = true := by decide
theorem test_step_beyond_cs_limit : refusedOf (step (launch { real with rip := 0x10000 } [0x89, 0xD8])) = some .fetchUnavailable := by
  decide
/-- The qword at 400000H is the program's own (file 95, section 3.7); launched by `withFetchWord`, it is refused too. -/
theorem test_launched_program_is_kept : refusedOf (step (long.withFetchWord 88 0x2AFFFFFFF505C748)) = some .programStore := by
  decide
theorem test_step_after_reset : (nextOf (step (State.reset.withFetchWord 24 0x1234B8))).map (·.getX 0) = some 0x1234 := by decide

/-! ## Witnesses: for each statement with hypotheses, values that meet them all together -/

/-- All prefixes, with a REX. -/
def allP : Prefixes := ⟨false, some .gs, true, true, some ⟨false, true, true, true⟩⟩

theorem witness_DecodeEncodeRoundTrip :
    Instr.wf ⟨.long64, false⟩ (.movRm16Imm16 allP (.mem (.sib 3 7 7 (.full 0x80000000))) 0xFFFF) = true := by decide
theorem witness_DecodedIsWellFormed : decode ⟨.long64, false⟩ [0x67, 0x66, 0x4F, 0x8B, 0x44, 0xFF, 0x80, 0x90] =
    .ok (.movR64Rm64 ⟨false, none, true, true, some ⟨true, true, true, true⟩⟩ 0 (.mem (.sib 3 7 7 (.short 0x80))), [0x90]) := by
  decide
theorem witness_RexRowsOnlyInLong64 : (⟨.compat, true⟩ : Ctx).mode ≠ .long64 ∧
    decode ⟨.compat, true⟩ [0x8C, 0xD8] = .ok (.movRm16Sreg .empty 3 (.reg 0), []) := by decide
theorem witness_GroupOpcodesOtherThanZeroRefused :
    (1#3 : BitVec 3) ≠ 0#3 ∧ (7#3 : BitVec 3) ≠ 0#3 ∧ allP.wf ⟨.long64, false⟩ = true := by decide
theorem witness_RepPrefixesRefused : (∀ b ∈ [0x66#8, 0x2E#8, 0xF3#8], isLegacyPrefix b = true) ∧
    0xF3#8 ∈ [0x66#8, 0x2E#8, 0xF3#8] ∧ [0xF2#8, 0x67#8].head? = some 0xF2#8 ∧ [0xF3#8].head? = some 0xF3#8 := by decide

/-- A state whose next bytes are given. -/
def at400000 (bs : List Byte) : State := launch long bs

theorem witness_StepRunsTheDecodedInstruction :
    decode (at400000 [0x89, 0xD8]).ctx (fetchBytes (at400000 [0x89, 0xD8])) =
      .ok (.movRm32R32 .empty 3 (.reg 0), [0, 0, 0, 0, 0, 0, 0, 0, 0, 0, 0, 0, 0, 0]) := by decide
theorem witness_DecodedIsWellFormed_sizes : (⟨.compat, true⟩ : Ctx).mode ≠ .long64 ∧ opSize ⟨.compat, true⟩ opszP = .o16 ∧
    opSize ⟨.real, false⟩ opszP = .o32 ∧ opSize ⟨.long64, false⟩ ⟨false, none, true, false, some ⟨true, false, false, false⟩⟩ = .o64 ∧
    adSize ⟨.v86, false⟩ .empty = .a16 ∧ adSize ⟨.long64, true⟩ .empty = .a64 := by decide
theorem witness_StepRunsTheDecodedInstruction_fetch : (fetchBytes (at400000 [0x89, 0xD8]))[1]? = some 0xD8 ∧
    (at400000 []).mode = .long64 ∧ canonical params.vaBits (long.rip + 15) = true ∧
    inRegions (at400000 []).program 0x40000F = true ∧ inRegions (at400000 []).devices 0x40000F = false ∧
    real.mode ≠ .long64 ∧ real.seg.cs.within (BitVec.ofNat 64 (real.rip.toNat % 2 ^ 32 + 15)) 1 = true := by decide
/-- The limit of CS lets 2 of the bytes at FFFEH be fetched, based at CS. -/
theorem test_fetch_at_cs_limit : fetchBytes { bytesAt real 0x1FFFE [0x89, 0xD8, 0x90] with
    rip := 0xFFFE, seg := { real.seg with cs := small 0x1000 0x10000 }, program := [⟨0, 0x100000⟩] } = [0x89, 0xD8] := by decide
theorem witness_OtherOpcodesRefused_below : fetchBytes (at400000 [0xAF]) = Prefixes.empty.bytes ++ 0xAF#8 :: List.replicate 15 0 ∧
    isLegacyPrefix 0xAF = false ∧ (long.mode = .long64 → isRexByte 0xAF = false) ∧
    (0xAF#8 : Byte) ∉ [0x88#8, 0x89#8, 0x8A#8, 0x8B#8, 0x8C#8, 0x8E#8, 0xA0#8, 0xA1#8, 0xA2#8, 0xA3#8, 0xC6#8, 0xC7#8] ∧
    ((0xAF#8 : Byte) < 0xB0#8 ∨ 0xBF#8 < (0xAF#8 : Byte)) := by decide
theorem witness_OtherOpcodesRefused_prefixes : opszP.wf (at400000 []).ctx = true ∧
    (rexP true false false false).wf (at400000 []).ctx = true ∧
    fetchBytes (at400000 [0x66, 0xC0]) = opszP.bytes ++ 0xC0#8 :: List.replicate 14 0 ∧
    fetchBytes (at400000 [0x48, 0xC0]) = (rexP true false false false).bytes ++ 0xC0#8 :: List.replicate 14 0 ∧
    isLegacyPrefix 0xC0 = false ∧ (long.mode = .long64 → isRexByte 0xC0 = false) ∧
    (0xC0#8 : Byte) ∉ [0x88#8, 0x89#8, 0x8A#8, 0x8B#8, 0x8C#8, 0x8E#8, 0xA0#8, 0xA1#8, 0xA2#8, 0xA3#8, 0xC6#8, 0xC7#8] ∧
    ((0xC0#8 : Byte) < 0xB0#8 ∨ 0xBF#8 < (0xC0#8 : Byte)) := by decide
theorem witness_OtherOpcodesRefused_error :
    decode (at400000 [0xF3]).ctx (fetchBytes (at400000 [0xF3])) = .error .repPrefix ∧
    decode long.ctx (fetchBytes long) = .error .truncated ∧ fetchPhys long (fetchBytes long).length = some 0x400000 ∧
    inRegions long.program 0x400000 = false ∧
    decode { real with rip := 0x10000 }.ctx (fetchBytes { real with rip := 0x10000 }) = .error .truncated ∧
    fetchPhys { real with rip := 0x10000 } (fetchBytes { real with rip := 0x10000 }).length = none := by decide

theorem witness_ByteRegisterMoves : Prefixes.empty.lock = false ∧ Prefixes.empty.rex = none := by decide
theorem witness_RexByteRegisterMoves : allP.lock = false ∧ allP.rex = some ⟨false, true, true, true⟩ := by decide
theorem witness_WordRegisterMoves : opszP.lock = false := by decide
theorem witness_DoublewordRegisterMoves : Prefixes.empty.lock = false ∧ long.mode = .long64 := by decide
theorem witness_QuadwordRegisterMoves : (rexP true true true true).lock = false := by decide
theorem witness_ImmediateByteToRegister : Prefixes.empty.lock = false ∧ Prefixes.empty.rex = none ∧
    (rexP false false false true).lock = false ∧ (rexP false false false true).rex = some ⟨false, false, false, true⟩ := by decide
theorem witness_ImmediateToOpcodeRegister : Prefixes.empty.lock = false ∧ long.mode = .long64 := by decide
theorem witness_ImmediateToModRMRegister : (rexP true false false false).lock = false ∧ long.mode = .long64 := by decide

/-! The operand at RBX lies at the top of the lower canonical half, and at 1000H. -/

/-- RBX = 00007FFFFFFFFFF8H. -/
def topState : State := regs long [(3, 0x00007FFFFFFFFFF8), (0, 0x1122334455667788)]

theorem witness_RegisterStores_8 :
    dataAddrs topState (memSeg topState .empty (.based 3 .none))
      (effAddr topState .empty (Instr.movRm8R8 .empty 4 (.mem (.based 3 .none))).length (.based 3 .none)) 1 .write =
        .next [0x00007FFFFFFFFFF8] ∧ [0x00007FFFFFFFFFF8].any (inRegions topState.program) = false ∧
    topState.mem.wf = true := ⟨eq_next (by decide), by decide, by decide⟩
theorem witness_RegisterStores_8_rex :
    dataAddrs topState (memSeg topState (rexP false false false false) (.based 3 .none))
      (effAddr topState (rexP false false false false)
        (Instr.movRm8R8Rex (rexP false false false false) 4 (.mem (.based 3 .none))).length (.based 3 .none)) 1 .write =
        .next [0x00007FFFFFFFFFF8] ∧ [0x00007FFFFFFFFFF8].any (inRegions topState.program) = false :=
  ⟨eq_next (by decide), by decide⟩
theorem witness_RegisterStores_16 :
    dataAddrs topState (memSeg topState opszP (.based 3 .none))
      (effAddr topState opszP (Instr.movRm16R16 opszP 0 (.mem (.based 3 .none))).length (.based 3 .none)) 2 .write =
        .next [0x00007FFFFFFFFFF8, 0x00007FFFFFFFFFF9] ∧ [0x00007FFFFFFFFFF8, 0x00007FFFFFFFFFF9].Nodup :=
  ⟨eq_next (by decide), by decide⟩
theorem witness_RegisterStores_32 :
    dataAddrs prot (memSeg prot .empty (.disp32 0x7FFFFFFC))
      (effAddr prot .empty (Instr.movRm32R32 .empty 0 (.mem (.disp32 0x7FFFFFFC))).length (.disp32 0x7FFFFFFC)) 4 .write =
        .next [0x7FFFFFFC, 0x7FFFFFFD, 0x7FFFFFFE, 0x7FFFFFFF] := eq_next (by decide)
theorem witness_RegisterStores_64 :
    dataAddrs topState (memSeg topState (rexP true false false false) (.based 3 .none))
      (effAddr topState (rexP true false false false)
        (Instr.movRm64R64 (rexP true false false false) 0 (.mem (.based 3 .none))).length (.based 3 .none)) 8 .write =
        .next ((List.range 8).map (0x00007FFFFFFFFFF8 + ·)) ∧
    ((List.range 8).map (0x00007FFFFFFFFFF8 + ·)).any (inRegions topState.program) = false ∧
    ((List.range 8).map (0x00007FFFFFFFFFF8 + ·)).Nodup := ⟨eq_next (by decide), by decide, by decide⟩

theorem witness_ImmediateStores_8 :
    dataAddrs topState (memSeg topState .empty (.based 3 .none))
      (effAddr topState .empty (Instr.movRm8Imm8 .empty (.mem (.based 3 .none)) 1).length (.based 3 .none)) 1 .write =
        .next [0x00007FFFFFFFFFF8] := eq_next (by decide)
theorem witness_ImmediateStores_8_rex :
    dataAddrs topState (memSeg topState (rexP false false false false) (.based 3 .none))
      (effAddr topState (rexP false false false false)
        (Instr.movRm8Imm8Rex (rexP false false false false) (.mem (.based 3 .none)) 1).length (.based 3 .none)) 1 .write =
        .next [0x00007FFFFFFFFFF8] := eq_next (by decide)
theorem witness_ImmediateStores_16 :
    dataAddrs real (memSeg real .empty (.abs16 0xFFFE))
      (effAddr real .empty (Instr.movRm16Imm16 .empty (.mem (.abs16 0xFFFE)) 1).length (.abs16 0xFFFE)) 2 .write =
        .next [0xFFFE, 0xFFFF] := eq_next (by decide)
theorem witness_ImmediateStores_32 :
    dataAddrs prot (memSeg prot .empty (.disp32 0xFFFFFFFC))
      (effAddr prot .empty (Instr.movRm32Imm32 .empty (.mem (.disp32 0xFFFFFFFC)) 1).length (.disp32 0xFFFFFFFC)) 4 .write =
        .next [0xFFFFFFFC, 0xFFFFFFFD, 0xFFFFFFFE, 0xFFFFFFFF] := eq_next (by decide)
theorem witness_ImmediateStores_64 :
    dataAddrs topState (memSeg topState (rexP true false false false) (.based 3 .none))
      (effAddr topState (rexP true false false false)
        (Instr.movRm64Imm32 (rexP true false false false) (.mem (.based 3 .none)) 1).length (.based 3 .none)) 8 .write =
        .next ((List.range 8).map (0x00007FFFFFFFFFF8 + ·)) := eq_next (by decide)

theorem witness_AccumulatorStores_8 : Prefixes.empty.lock = false ∧ [0xFFFFFFFF].any (inRegions prot.program) = false ∧
    dataAddrs prot (moffsSeg prot .empty) (moffsValue (.off32 0xFFFFFFFF)) 1 .write = .next [0xFFFFFFFF] :=
  ⟨by decide, by decide, eq_next (by decide)⟩
theorem witness_AccumulatorStores_16 :
    dataAddrs prot (moffsSeg prot .empty) (moffsValue (.off32 0xFFFFFFFE)) 2 .write = .next [0xFFFFFFFE, 0xFFFFFFFF] ∧
    [0xFFFFFFFE, 0xFFFFFFFF].any (inRegions prot.program) = false := ⟨eq_next (by decide), by decide⟩
theorem witness_AccumulatorStores_32 :
    dataAddrs prot (moffsSeg prot .empty) (moffsValue (.off32 0)) 4 .write = .next [0, 1, 2, 3] ∧
    [0, 1, 2, 3].any (inRegions prot.program) = false := ⟨eq_next (by decide), by decide⟩
theorem witness_AccumulatorStores_64 :
    dataAddrs long (moffsSeg long .empty) (moffsValue (.off64 0)) 8 .write = .next [0, 1, 2, 3, 4, 5, 6, 7] ∧
    [0, 1, 2, 3, 4, 5, 6, 7].any (inRegions long.program) = false := ⟨eq_next (by decide), by decide⟩

theorem witness_RegisterLoads_8 :
    dataAddrs topState (memSeg topState .empty (.based 3 .none))
      (effAddr topState .empty (Instr.movR8Rm8 .empty 4 (.mem (.based 3 .none))).length (.based 3 .none)) 1 .read =
        .next [0x00007FFFFFFFFFF8] := eq_next (by decide)
theorem witness_RegisterLoads_8_rex :
    dataAddrs topState (memSeg topState (rexP false false false false) (.based 3 .none))
      (effAddr topState (rexP false false false false)
        (Instr.movR8Rm8Rex (rexP false false false false) 4 (.mem (.based 3 .none))).length (.based 3 .none)) 1 .read =
        .next [0x00007FFFFFFFFFF8] := eq_next (by decide)
theorem witness_RegisterLoads_16 :
    dataAddrs real (memSeg real .empty (.abs16 0xFFFE))
      (effAddr real .empty (Instr.movR16Rm16 .empty 7 (.mem (.abs16 0xFFFE))).length (.abs16 0xFFFE)) 2 .read =
        .next [0xFFFE, 0xFFFF] := eq_next (by decide)
theorem witness_RegisterLoads_32 :
    dataAddrs prot (memSeg prot .empty (.disp32 0xFFFFFFFC))
      (effAddr prot .empty (Instr.movR32Rm32 .empty 7 (.mem (.disp32 0xFFFFFFFC))).length (.disp32 0xFFFFFFFC)) 4 .read =
        .next [0xFFFFFFFC, 0xFFFFFFFD, 0xFFFFFFFE, 0xFFFFFFFF] := eq_next (by decide)
theorem witness_RegisterLoads_64 :
    dataAddrs long (memSeg long (rexP true true false false) (.sibAbs 0 4 0x10))
      (effAddr long (rexP true true false false)
        (Instr.movR64Rm64 (rexP true true false false) 7 (.mem (.sibAbs 0 4 0x10))).length (.sibAbs 0 4 0x10)) 8 .read =
        .next [0x10, 0x11, 0x12, 0x13, 0x14, 0x15, 0x16, 0x17] := eq_next (by decide)

theorem witness_AccumulatorLoads_8 :
    dataAddrs prot (moffsSeg prot .empty) (moffsValue (.off32 0xFFFFFFFF)) 1 .read = .next [0xFFFFFFFF] := eq_next (by decide)
theorem witness_AccumulatorLoads_16 :
    dataAddrs prot (moffsSeg prot .empty) (moffsValue (.off32 0xFFFFFFFE)) 2 .read = .next [0xFFFFFFFE, 0xFFFFFFFF] :=
  eq_next (by decide)
theorem witness_AccumulatorLoads_32 :
    dataAddrs prot (moffsSeg prot .empty) (moffsValue (.off32 0)) 4 .read = .next [0, 1, 2, 3] := eq_next (by decide)
theorem witness_AccumulatorLoads_64 :
    dataAddrs long (moffsSeg long .empty) (moffsValue (.off64 0)) 8 .read = .next [0, 1, 2, 3, 4, 5, 6, 7] :=
  eq_next (by decide)

/-- DS holds a NULL selector. -/
def nullDs : State := withDs prot { flat 3 with usable := false }

/-- The operand at EBX, address 0, is a device. -/
def deviceAt0 : State := { prot with devices := [⟨0, 0x10⟩] }

theorem witness_OperandFaultsStopTheMove :
    dataAddrs nullDs (memSeg nullDs .empty (.based 3 .none))
      (effAddr nullDs .empty (Instr.movRm32R32 .empty 0 (.mem (.based 3 .none))).length (.based 3 .none)) 4 .write =
        .fault (.gp .zero) ∧
    dataAddrs nullDs (memSeg nullDs .empty (.based 3 .none))
      (effAddr nullDs .empty (Instr.movR8Rm8 .empty 0 (.mem (.based 3 .none))).length (.based 3 .none)) 1 .read =
        .fault (.gp .zero) ∧
    dataAddrs nullDs (moffsSeg nullDs .empty) (moffsValue (.off32 0)) 2 .read = .fault (.gp .zero) ∧
    dataAddrs nullDs (memSeg nullDs .empty (.based 3 .none))
      (effAddr nullDs .empty (Instr.movRm16Sreg .empty 3 (.mem (.based 3 .none))).length (.based 3 .none))
      (sregMemBytes nullDs (opSize nullDs.ctx .empty)) .write = .fault (.gp .zero) ∧ sregOfField 3 = some .ds :=
  ⟨eq_fault (by decide), eq_fault (by decide), eq_fault (by decide), eq_fault (by decide), by decide⟩
theorem witness_OperandFaultsStopTheMove_refused :
    refusedOf (dataAddrs deviceAt0 (memSeg deviceAt0 .empty (.based 3 .none))
      (effAddr deviceAt0 .empty (Instr.movRm8Imm8 .empty (.mem (.based 3 .none)) 1).length (.based 3 .none)) 1 .write) =
        some .deviceAccess ∧
    refusedOf (dataAddrs deviceAt0 (moffsSeg deviceAt0 .empty) (moffsValue (.off32 0xF)) 4 .write) = some .deviceAccess ∧
    refusedOf (dataAddrs deviceAt0 (memSeg deviceAt0 .empty (.based 3 .none))
      (effAddr deviceAt0 .empty (Instr.movSregRm16 .empty 3 (.mem (.based 3 .none))).length (.based 3 .none))
      (sregMemBytes deviceAt0 (opSize deviceAt0.ctx .empty)) .read) = some .deviceAccess := by decide

/-- DS of `prot` with a given type and limit. -/
def typedDs (type : BitVec 4) (limit : BitVec 32) : State :=
  withDs prot { flat 0x23 with limit := limit, attr := { (flat 0x23).attr with type := type } }

theorem witness_UncheckedAccessResolves_up : prot.pagingOn = false ∧ (prot.sreg .ds).usable = true ∧
    (prot.sreg .ds).attr.writable = true ∧ (prot.sreg .ds).attr.expandDown = false ∧
    (0xFFFFFFFC#64).toNat + 4 ≤ (prot.sreg .ds).limit.toNat + 1 ∧ prot.mode ≠ .long64 ∧ prot.acOn = false ∧
    (∀ a ∈ [0xFFFFFFFC, 0xFFFFFFFD, 0xFFFFFFFE, 0xFFFFFFFF], inRegions prot.devices a = false) := by decide
theorem witness_UncheckedAccessResolves_down : (typedDs 7 0xFFF).pagingOn = false ∧ ((typedDs 7 0xFFF).sreg .ds).usable = true ∧
    ((typedDs 7 0xFFF).sreg .ds).attr.writable = true ∧ ((typedDs 7 0xFFF).sreg .ds).attr.expandDown = true ∧
    ((typedDs 7 0xFFF).sreg .ds).limit.toNat < (0x1000#64).toNat ∧ ((typedDs 7 0xFFF).sreg .ds).attr.db = true ∧
    (0x1000#64).toNat + 4 ≤ 2 ^ 32 ∧ (typedDs 7 0xFFF).acOn = false := by decide
theorem witness_UncheckedAccessResolves_long64 : long.mode = .long64 ∧ long.pagingOn = false ∧ long.acOn = false ∧
    (∀ j < 8, canonical long.impl.vaBits (linearAddr long .ds 0x00007FFFFFFFFFF8 + BitVec.ofNat 64 j) = true) ∧
    (∀ a ∈ [0x00007FFFFFFFFFF8, 0x00007FFFFFFFFFFF], inRegions long.devices a = false) := by decide
theorem witness_UncheckedAccessResolves_real : real.mode = .real ∧ (real.sreg .ss).attr.expandDown = false ∧
    (0xFFFE#64).toNat + 2 ≤ (real.sreg .ss).limit.toNat + 1 ∧ inRegions real.devices 0x2FFFE = false := by decide

theorem witness_UncheckedAccessResolves_device :
    inRegions ({ long with devices := [⟨0xFEE00000, 0x1000⟩] } : State).devices 0xFEE00FFF = true := by decide

/-- `Prot` with paging on. -/
def paged : State := { prot with cr0 := 0x80000001 }

theorem witness_TranslationDecidesTheAccess : segFault paged .ds 0xFFFFFFFC 4 .write = none ∧
    canonicalFault paged .ds (byteAddrs paged.wideLinear (linearAddr paged .ds 0xFFFFFFFC) 4) = none ∧ paged.acOn = false ∧
    paged.pagingOn = true := by decide
theorem witness_LinearAddressOfAnOffset : v86.mode ≠ .long64 ∧ long.mode = .long64 := by decide
theorem witness_StoresIntoTheProgramRefused : [0x7FFFFFFC, 0x7FFFFFFD, 0x7FFFFFFE, 0x7FFFFFFF].any
      (inRegions ({ prot with program := [⟨0x7FFFFFFF, 1⟩] } : State).program) = true ∧
    dataAddrs { prot with program := [⟨0x7FFFFFFF, 1⟩] } .ds 0x7FFFFFFC 4 .write =
      .next [0x7FFFFFFC, 0x7FFFFFFD, 0x7FFFFFFE, 0x7FFFFFFF] ∧ sregOfField 3 = some .ds :=
  ⟨by decide, eq_next (by decide), by decide⟩
theorem witness_SegmentChecksOfProtAndCompat_null : nullDs.mode = .prot ∧ (nullDs.sreg .ds).usable = false := by decide
theorem witness_SegmentChecksOfProtAndCompat_type : (typedDs 9 0xFFF).mode = .prot ∧
    ((typedDs 9 0xFFF).sreg .ds).attr.type.getLsbD 3 = true ∧ ((typedDs 9 0xFFF).sreg .ds).attr.type.getLsbD 1 = false ∧
    compat.mode = .compat ∧ (compat.sreg .cs).attr.type.getLsbD 3 = true ∧
    (typedDs 1 0xFFF).mode = .prot ∧ ((typedDs 1 0xFFF).sreg .ds).attr.type.getLsbD 1 = false := by decide
theorem witness_LimitViolationFaults_up : real.mode ≠ .long64 ∧ (real.sreg .ds).attr.expandDown = false ∧
    (real.sreg .ds).limit.toNat + 1 < (0xFFFF#64).toNat + 2 := by decide
theorem witness_LimitViolationFaults_down : (typedDs 7 0xFFF).mode ≠ .long64 ∧ ((typedDs 7 0xFFF).sreg .ds).usable = true ∧
    ((typedDs 7 0xFFF).sreg .ds).attr.writable = true ∧ ((typedDs 7 0xFFF).sreg .ds).attr.executeOnly = false ∧
    ((typedDs 7 0xFFF).sreg .ds).attr.expandDown = true ∧
    (0xFFF#64).toNat ≤ ((typedDs 7 0xFFF).sreg .ds).limit.toNat ∧ 2 ^ 32 < (0xFFFFFFFF#64).toNat + 2 := by decide
theorem witness_NonCanonicalAccessFaults : long.mode = .long64 ∧ 3 < 4 ∧
    canonical long.impl.vaBits (linearAddr long .ds 0x00007FFFFFFFFFFD + BitVec.ofNat 64 3) = false := by decide

/-- `prot` at CPL 3 with alignment checking. -/
def checked : State := { prot with cr0 := 0x40001, rflags := 0x40002, cpl := 3 }

theorem witness_UnalignedAccessFaults : checked.mode ≠ .real ∧ checked.acOn = true ∧ checked.cpl = 3#2 ∧
    (linearAddr checked .ds 0x1001).toNat % 4 ≠ 0 ∧ segFault checked .ds 0x1001 4 .read = none ∧
    canonicalFault checked .ds (byteAddrs checked.wideLinear (linearAddr checked .ds 0x1001) 4) = none := by decide
theorem witness_EffectiveAddressIsTruncated : adSize real.ctx .empty = .a16 ∧ adSize prot.ctx .empty = .a32 ∧
    (Base16.bpDi, 0xFFF8 + 0x10) ∈ [(Base16.bxSi, 0), (.bpDi, lowWord (regs real [(5, 0xFFF8), (7, 0x10)]) 5 +
      lowWord (regs real [(5, 0xFFF8), (7, 0x10)]) 7)] := by decide
theorem witness_AddressesOf32And64Bits : adSize prot.ctx .empty = .a32 ∧ adSize long.ctx .empty = .a64 ∧
    (rexP false false true false).x = true ∧ prot.mode ≠ .long64 := by decide
theorem test_effAddr_scaled_index :
    effAddr (regs prot [(3, 0xFFFFFFFF), (1, 0x40000001)]) .empty 3 (.sib 2 1 3 (.short 0xFF)) = 2#64 ∧
    effAddr (regs long [(3, 0x10), (12, 0x4000000000000001)]) (rexP true false true false) 4 (.sib 3 4 3 .none) = 0x18#64 ∧
    effAddr (regs prot [(4, 0x7000), (3, 0x20)]) .empty 3 (.sib 3 4 3 .none) = 0x20#64 := by decide
theorem witness_SegmentOfAMemoryOperand : Prefixes.empty.seg = none ∧ allP.seg = some .gs ∧
    (⟨false, some .cs, false, false, none⟩ : Prefixes).seg = some .cs ∧ long.mode = .long64 ∧ prot.mode ≠ .long64 := by decide
theorem witness_RipRelativeAddress : long.mode = .long64 ∧ Prefixes.empty.adsz = false ∧
    (⟨false, none, false, true, none⟩ : Prefixes).adsz = true := by decide

theorem witness_SelectorToRegister : Prefixes.empty.lock = false ∧ Prefixes.empty.r = false ∧
    sregOfField 0 = some .es ∧ sregOfField 5 = some .gs ∧ opSize real.ctx .empty = .o16 ∧ opSize prot.ctx .empty = .o32 ∧
    prot.impl.sregHi16 = .zero ∧ opSize long.ctx .empty = .o32 ∧ long.mode = .long64 := by decide
theorem witness_SelectorToMemory : Prefixes.empty.r = false ∧ sregOfField 3 = some .ds ∧
    [0xFFFE, 0xFFFF].any (inRegions real.program) = false ∧
    dataAddrs real (memSeg real .empty (.abs16 0xFFFE))
      (effAddr real .empty (Instr.movRm16Sreg .empty 3 (.mem (.abs16 0xFFFE))).length (.abs16 0xFFFE))
      (sregMemBytes real (opSize real.ctx .empty)) .write = .next [0xFFFE, 0xFFFF] :=
  ⟨by decide, by decide, by decide, eq_next (by decide)⟩
theorem witness_SelectorToMemory_width : prot.impl.sregMemBytes = .two ∧
    ({ params with sregMemBytes := .operandSize } : Impl).sregMemBytes = .operandSize := by decide
theorem witness_SelectorToMemory_64 :
    dataAddrs topState (memSeg topState (rexP true false false false) (.based 3 .none))
      (effAddr topState (rexP true false false false)
        (Instr.movRm64Sreg (rexP true false false false) 3 (.mem (.based 3 .none))).length (.based 3 .none))
      (sregMemBytes topState .o64) .write = .next [0x00007FFFFFFFFFF8, 0x00007FFFFFFFFFF9] := eq_next (by decide)

theorem witness_SegmentLoadWithoutChecks : real.mode = .real ∧ v86.mode = .v86 ∧ sregOfField 2 = some .ss ∧
    readSel (regs real [(0, 0xFFFF)]) .empty 2 (opSize real.ctx .empty) (.reg 0) = .next 0xFFFF ∧
    readSel (regs v86 [(0, 0)]) .empty 2 .o64 (.reg 0) = .next 0 :=
  ⟨by decide, by decide, by decide, eq_next (by decide), eq_next (by decide)⟩
theorem witness_NullSelectorLoads : checkedMode long.mode ∧ (3#16).toNat < 4 ∧ sregOfField 3 = some .ds ∧
    readSel (regs long [(0, 3)]) .empty 2 (opSize long.ctx .empty) (.reg 0) = .next 3 :=
  ⟨.inr (.inr (by decide)), by decide, by decide, eq_next (by decide)⟩
theorem witness_NullSelectorLoads_ss : sregOfField 2 = some .ss ∧ long.mode = .long64 ∧ long.cpl ≠ 3#2 ∧
    (0#16).extractLsb' 0 2 = long.cpl ∧ readSel long (rexP true false false false) 3 .o64 (.reg 0) = .next 0 :=
  ⟨by decide, by decide, by decide, by decide, eq_next (by decide)⟩
theorem witness_NullStackSelectorFaults : prot.mode = .prot ∧ compat.mode = .compat ∧
    (long.mode = .long64 ∧ (3#16).extractLsb' 0 2 ≠ long.cpl) ∧
    readSel (regs long [(0, 3)]) .empty 2 (opSize long.ctx .empty) (.reg 0) = .next 3 ∧
    readSel prot .empty 2 (opSize prot.ctx .empty) (.reg 0) = .next 0 :=
  ⟨by decide, by decide, by decide, eq_next (by decide), eq_next (by decide)⟩

/-- The descriptors of entries 2 and 6 of `gdt`. -/
def desc2 : Word := 0x00CF92000000FFFF
def desc6 : Word := 0x00CF12000000FFFF

theorem witness_readDesc_ds : readDesc (gdt prot) .ds 0x10 = .next desc2 := eq_next (by decide)
theorem witness_readDesc_ss : readDesc (gdt prot) .ss 0x10 = .next desc2 := eq_next (by decide)
theorem witness_readDesc_absent : readDesc (gdt prot) .ss 0x30 = .next desc6 ∧ readDesc (gdt prot) .ds 0x30 = .next desc6 :=
  ⟨eq_next (by decide), eq_next (by decide)⟩

theorem witness_DescriptorLoads_ds : checkedMode (gdt prot).mode ∧ 4 ≤ (0x10#16).toNat ∧
    desc2.getLsbD 44 = true ∧ desc2.getLsbD 47 = true ∧ desc2.getLsbD 43 = false ∧
    (0x10#16).extractLsb' 0 2 ≤ desc2.extractLsb' 45 2 ∧ (gdt prot).cpl ≤ desc2.extractLsb' 45 2 ∧
    (nextOf (setAccessedBit (gdt prot) 0x10 desc2)).isSome = true ∧
    readSel (regs (gdt prot) [(0, 0x10)]) .empty 2 (opSize prot.ctx .empty) (.reg 0) = .next 0x10 :=
  ⟨.inl (by decide), by decide, by decide, by decide, by decide, by decide, by decide, by decide, eq_next (by decide)⟩
theorem witness_DescriptorLoads_ss : (0x10#16).extractLsb' 0 2 = (gdt prot).cpl ∧
    desc2.extractLsb' 45 2 = (gdt prot).cpl ∧ desc2.getLsbD 43 = false ∧ desc2.getLsbD 41 = true := by decide
theorem witness_DescriptorLoads_both : (gdt prot).impl.dataSegPrivRule = .both ∧
    (gdt prot).cpl ≤ desc2.extractLsb' 45 2 := by decide
theorem witness_DescriptorIsReadFromTheTable : checkedMode prot.mode ∧ prot.pagingOn = false ∧
    (0x38#16).getLsbD 2 = false ∧ (0x38#16).toNat / 8 * 8 + 7 ≤ prot.gdtr.limit.toNat :=
  ⟨.inl (by decide), by decide, by decide, by decide⟩

/-- `compat` with the table at the end of the 32-bit space, its base written with a bit above it (R51, D36). -/
def highTable : State :=
  { bytesAt (bytesAt compat 0xFFFFFFFC [0xFF, 0xFF, 0, 0]) 0 [0, 0x93, 0xCF, 0] with gdtr := ⟨0x1FFFFFFF4, 0x3F⟩ }

theorem test_compat_table_wraps : nextOf (readDesc highTable .ds 8) = some 0x00CF93000000FFFF := by decide

/-- `prot` with a loaded LDT of one entry. -/
def withLdt : State := { prot with ldtr := ⟨0x18, 0x2000, 0xF, true⟩ }

theorem witness_DescriptorIsReadFromTheTable_ldt : withLdt.pagingOn = false ∧
    (0xC#16).getLsbD 2 = true ∧ withLdt.ldtr.usable = true ∧ (0xC#16).toNat / 8 * 8 + 7 ≤ withLdt.ldtr.limit.toNat := by decide
theorem witness_DescriptorIsReadFromTheTable_long64 : long.mode = .long64 ∧
    ((List.range 8).map fun j => long.gdtr.base + BitVec.ofNat 64 ((0x38#16).toNat / 8 * 8) + BitVec.ofNat 64 j).all
      (canonical long.impl.vaBits) = true := by decide
theorem witness_AccessedBitIsWritten : (gdt prot).impl.setAccessed = true ∧ desc2.getLsbD 40 = false ∧
    (gdt prot).translate .write false 0x1015 = .phys 0x1015 ∧ inRegions (gdt prot).devices 0x1015 = false ∧
    inRegions (gdt prot).program 0x1015 = false ∧ (gdt prot).mem.wf = true ∧ checkedMode (gdt prot).mode ∧
    4 ≤ (0x10#16).toNat ∧ descFault (gdt prot) .ds 0x10 desc2 = none :=
  ⟨by decide, by decide, by decide, by decide, by decide, by decide, .inl (by decide), by decide, by decide⟩
theorem witness_AccessedBitIsWritten_stops :
    inRegions ({ gdt prot with devices := [⟨0x1015, 1⟩] } : State).devices 0x1015 = true ∧
    refusedOf (setAccessedBit { gdt prot with program := [⟨0x1015, 1⟩] } 0x10 desc2) = some .programStore ∧
    refusedOf (loadSeg { gdt prot with program := [⟨0x1015, 1⟩] } .ds 0x10) = some .programStore ∧
    ({ params with setAccessed := false } : Impl).setAccessed = false := by decide
theorem witness_TableLimitFaults : checkedMode prot.mode ∧ 4 ≤ (0x40#16).toNat ∧
    ((0x40#16).getLsbD 2 = false ∧ prot.gdtr.limit.toNat < (0x40#16).toNat / 8 * 8 + 7) ∧
    ((0x4#16).getLsbD 2 = true ∧ prot.ldtr.usable = false) ∧
    ((0x14#16).getLsbD 2 = true ∧ withLdt.ldtr.limit.toNat < (0x14#16).toNat / 8 * 8 + 7) ∧
    readSel (regs prot [(0, 0x40)]) .empty 2 (opSize prot.ctx .empty) (.reg 0) = .next 0x40 :=
  ⟨.inl (by decide), by decide, by decide, by decide, by decide, eq_next (by decide)⟩
theorem witness_TableLimitFaults_noncanonical : long.mode = .long64 ∧
    canonical long.impl.vaBits (({ long with gdtr := ⟨0x00007FFFFFFFFFF0, 0x3F⟩ } : State).gdtr.base +
      BitVec.ofNat 64 ((0x10#16).toNat / 8 * 8) + BitVec.ofNat 64 0) = false := by decide
theorem witness_StackSegmentChecks : checkedMode (gdt prot).mode ∧ readDesc (gdt prot) .ss 0x13 = .next desc2 ∧
    (0x13#16).extractLsb' 0 2 ≠ (gdt prot).cpl ∧ readDesc (gdt prot) .ss 0x30 = .next desc6 ∧
    (0x30#16).extractLsb' 0 2 = (gdt prot).cpl ∧ desc6.extractLsb' 45 2 = (gdt prot).cpl ∧ desc6.getLsbD 44 = true ∧
    desc6.getLsbD 43 = false ∧ desc6.getLsbD 41 = true ∧ desc6.getLsbD 47 = false :=
  ⟨.inl (by decide), eq_next (by decide), by decide, eq_next (by decide), by decide, by decide, by decide, by decide, by decide,
   by decide⟩
theorem witness_DataSegmentChecks_system : (0x00CF82000000FFFF#64).getLsbD 44 = false ∧
    (0x00CF98000000FFFF#64).getLsbD 43 = true ∧ (0x00CF98000000FFFF#64).getLsbD 41 = false ∧
    readDesc (bytesAt prot 0x1028 [0xFF, 0xFF, 0, 0, 0, 0x98, 0xCF]) .ds 0x28 = .next 0x00CF98000000FFFF :=
  ⟨by decide, by decide, by decide, eq_next (by decide)⟩
theorem witness_DataSegmentChecks_privilege : desc2.getLsbD 44 = true ∧ desc2.getLsbD 43 = false ∧
    desc2.extractLsb' 45 2 < (0x13#16).extractLsb' 0 2 ∧ desc2.extractLsb' 45 2 < ({ gdt prot with cpl := 3 } : State).cpl ∧
    readDesc { gdt prot with cpl := 3 } .ds 0x13 = .next desc2 :=
  ⟨by decide, by decide, by decide, by decide, eq_next (by decide)⟩
theorem witness_DataSegmentChecks_absent : desc6.getLsbD 44 = true ∧ desc6.getLsbD 43 = false ∧ desc6.getLsbD 47 = false ∧
    (0x30#16).extractLsb' 0 2 ≤ desc6.extractLsb' 45 2 ∧ (gdt prot).cpl ≤ desc6.extractLsb' 45 2 := by decide
theorem witness_OperandFaultComesBeforeLoadSeg_selector :
    dataAddrs long (memSeg long .empty (.disp32 0)) (effAddr long .empty 6 (.disp32 0)) (sregMemBytes long .o32) .read =
      .next [0x400006, 0x400007] := eq_next (by decide)
/-- The word at 2000H is the selector, low byte first (R142); bits 15:0 of R8 with REX.B. -/
theorem test_selector_operand :
    nextOf (readSel (bytesAt prot 0x2000 [0x34, 0x12, 0xFF]) .empty 6 .o32 (.disp32 0x2000 |> .mem)) = some 0x1234 ∧
    nextOf (readSel (regs long [(8, 0x7766554433221100)]) (rexP false false false true) 3 .o32 (.reg 0)) = some 0x1100 := by decide
theorem witness_OperandFaultComesBeforeLoadSeg : sregOfField 3 = some .ds ∧
    readSel nullDs .empty (Instr.movSregRm16 .empty 3 (.mem (.based 3 .none))).length (opSize nullDs.ctx .empty)
      (.mem (.based 3 .none)) = .fault (.gp .zero) ∧
    readSel (regs prot [(0, 0x40)]) .empty 2 (opSize prot.ctx .empty) (.reg 0) = .next 0x40 ∧
    loadSeg (regs prot [(0, 0x40)]) .ds 0x40 = .fault (.gp (.selector 0x40)) :=
  ⟨by decide, eq_fault (by decide), eq_next (by decide), eq_fault (by decide)⟩
theorem witness_OperandFaultComesBeforeLoadSeg_refused :
    refusedOf (readSel { prot with devices := [⟨0, 0x1000⟩] } .empty 2 (opSize prot.ctx .empty) (.mem (.based 3 .none))) =
      some .deviceAccess ∧
    refusedOf (loadSeg { prot with devices := [⟨0x1000, 8⟩] } .ds 0x4) = none ∧
    refusedOf (loadSeg { prot with devices := [⟨0x1017, 1⟩] } .ds 0x10) = some .deviceAccess := by decide
theorem witness_OperandSizeIrrelevantToSegmentLoad : Prefixes.empty.lock = false ∧ Prefixes.empty.opsz = false ∧
    opszP = { Prefixes.empty with opsz := true } ∧ prot.impl.sregMemBytes = .two ∧
    (nextOf (exec (.movSregRm16 .empty 3 (.reg 0)) (regs (gdt prot) [(0, 0x10)]))).isSome = true ∧
    faultOf (exec (.movSregRm16 .empty 3 (.reg 0)) (regs (gdt prot) [(0, 0x40)])) = some (.gp (.selector 0x40)) ∧
    refusedOf (exec (.movSregRm16 .empty 3 (.mem (.based 3 .none))) deviceAt0) = some .deviceAccess ∧
    (nextOf (exec (.movSregRm64 (rexP true false false false) 3 (.mem (.based 3 .none))) long)).isSome = true := by decide

theorem witness_LockRaisesInvalidOpcode : (Instr.movRm32R32 lockP 0 (.reg 0)).prefixes.lock = true := by decide
theorem witness_LoadOfCsRaisesInvalidOpcode : Prefixes.empty.lock = false ∧ Prefixes.empty.r = false := by decide
theorem witness_NoSuchSegmentRegister : Prefixes.empty.r = false ∧ (rexP false true false false).lock = false ∧
    (rexP false true false false).r = true := by decide
theorem witness_ExceptionsByModeAndCause_mode : real.mode = .real ∧ v86.mode = .v86 ∧
    exec (.movSregRm16 .empty 1 (.reg 0)) real = .fault .ud ∧ exec (.movSregRm16 .empty 1 (.reg 0)) v86 = .fault .ud :=
  ⟨by decide, by decide, eq_fault (by decide), eq_fault (by decide)⟩
theorem witness_ExceptionsByModeAndCause_selector :
    exec (.movSregRm16 .empty 3 (.reg 0)) (regs (gdt prot) [(0, 0x30)]) = .fault (.np 0x30) := eq_fault (by decide)
theorem witness_DirectionsOfRegisterMovesAgree : rexP true false true true =
    { rexP true true true false with rex := (rexP true true true false).rex.map fun x => ⟨x.w, x.b, x.x, x.r⟩ } := by decide

theorem witness_Inv_prot : prot.Inv := by
  refine ⟨by decide, by decide, by decide, by decide, fun _ => ⟨by decide, fun k _ _ => ?_⟩⟩
  cases k <;> decide
theorem witness_PcAdvancesByTheLength : (nextOf (exec (.movRm32R32 .empty 0 (.reg 0)) { prot with rip := 0xFFFFFFFE })).isSome = true := by
  decide
theorem witness_RexRowsOnlyInLong64_absent : ({ params with hasLongMode := false } : Impl).hasLongMode = false := by decide
theorem witness_StepKeepsTheInvariant : (nextOf (step (launch prot [0x8E, 0xD8]))).isSome = true := by decide
theorem witness_NormalBases : real.NormalBases ∧ (nextOf (step (launch real [0x8E, 0xD8]))).isSome = true ∧
    v86.NormalBases ∧ long.Startable :=
  ⟨fun _ k => by cases k <;> decide, by decide, fun _ k => by cases k <;> decide,
    ⟨by decide, by decide, by decide, by decide, by decide⟩⟩
theorem witness_StepKeepsTheProgram : inRegions [⟨0x100000, 2⟩] 0x100001 = true ∧
    (nextOf (step { bytesAt prot 0x100000 [0x8E, 0xD8] with program := [⟨0x100000, 2⟩] })).isSome = true ∧
    (nextOf (step (launch prot [0x8E, 0xD8]))).bind (fun t => fetchAddr t 0) = some 0x100002 := by decide
theorem witness_InhibitionFollowsLoadsOfSs :
    (nextOf (exec (.movSregRm16 .empty 2 (.reg 0)) (regs (gdt prot) [(0, 0x10)]))).isSome = true ∧
    (gdt prot).ssInhibit = false ∧ (nextOf (exec (.movRm32R32 .empty 0 (.reg 0)) prot)).isSome = true := by decide

end Sys2Proof.Tests
end

/-! PROOF. No step writes the system state or CS (O56): one lemma per shared operation, then one per kind of move, then
the step. -/

namespace Sys2Proof.Machine

/-! ## The shared moves of the 34 forms -/

/-- The outcome `r` is that of one of the seven moves that the 34 forms of R101 share. -/
inductive SharedMove (i : Instr) (s : State) : Res State → Prop where
  | toRM (w : Width) (rm : RM) (v : Word) : SharedMove i s (moveToRM i w rm v s)
  | fromRM (w : Width) (reg : BitVec 3) (rm : RM) : SharedMove i s (moveFromRM i w reg rm s)
  | fromMoffs (w : Width) (m : Moffs) : SharedMove i s (moveFromMoffs i w m s)
  | toMoffs (w : Width) (m : Moffs) : SharedMove i s (moveToMoffs i w m s)
  | toOpReg (w : Width) (r : BitVec 3) (v : Word) : SharedMove i s (moveToOpReg i w r v s)
  | fromSreg (o : OpSize) (reg : BitVec 3) (rm : RM) : SharedMove i s (moveFromSreg i o reg rm s)
  | toSreg (o : OpSize) (reg : BitVec 3) (rm : RM) : SharedMove i s (moveToSreg i o reg rm s)

/-- The meaning of every row of the opcode table is one of the shared moves (R101). -/
theorem exec_sharedMove (i : Instr) (s : State) : SharedMove i s (exec i s) := by
  cases i with
  | movRm8R8 | movRm8R8Rex | movRm16R16 | movRm32R32 | movRm64R64 => exact .toRM _ _ _
  | movRm8Imm8 | movRm8Imm8Rex | movRm16Imm16 | movRm32Imm32 | movRm64Imm32 => exact .toRM _ _ _
  | movR8Rm8 | movR8Rm8Rex | movR16Rm16 | movR32Rm32 | movR64Rm64 => exact .fromRM _ _ _
  | movAlMoffs8 | movAlMoffs8RexW | movAxMoffs16 | movEaxMoffs32 | movRaxMoffs64 => exact .fromMoffs _ _
  | movMoffs8Al | movMoffs8AlRexW | movMoffs16Ax | movMoffs32Eax | movMoffs64Rax => exact .toMoffs _ _
  | movR8Imm8 | movR8Imm8Rex | movR16Imm16 | movR32Imm32 | movR64Imm64 => exact .toOpReg _ _ _
  | movRm16Sreg | movRm64Sreg => exact .fromSreg _ _ _
  | movSregRm16 | movSregRm64 => exact .toSreg _ _ _

/-! ## What is kept through each operation on the state -/

/-- From `s` to `t` neither the system state nor CS has changed. -/
structure SystemAndCsKept (s t : State) : Prop where
  system : SystemKept s t
  cs : t.seg.cs = s.seg.cs

namespace SystemAndCsKept

theorem refl (s : State) : SystemAndCsKept s s := ⟨by simp [SystemKept], rfl⟩

section
variable {s t u : State} (h : SystemAndCsKept s t)
include h

theorem after_setX (i : BitVec 4) (v : Word) : SystemAndCsKept s (t.setX i v) := ⟨h.system, h.cs⟩

theorem after_draw : SystemAndCsKept s t.draw.2 := ⟨h.system, h.cs⟩

theorem after_complete (len : Nat) (b : Bool) : SystemAndCsKept s (complete t len b) := ⟨h.system, h.cs⟩

theorem after_withMem (m : Memory) : SystemAndCsKept s { t with mem := m } := ⟨h.system, h.cs⟩

theorem after_setSreg {k : SReg} (hk : k ≠ .cs) (r : SegReg) : SystemAndCsKept s (t.setSreg k r) :=
  ⟨by simpa [SystemKept] using h.system, (setSreg_cs t r hk).trans h.cs⟩

theorem after_regWrite (n : BitVec 4) (w : Width) (rex : Bool) (v : Word) :
    SystemAndCsKept s (regWrite t n w rex v) := by
  obtain ⟨i, x, hw⟩ | ⟨x, hw⟩ := regWrite_cases t n w rex v
  · exact hw ▸ h.after_setX i x
  · exact hw ▸ h.after_draw.after_setX n x

theorem after_writeSelReg (p : Prefixes) (o : OpSize) (rm : BitVec 3) (sel : BitVec 16) :
    SystemAndCsKept s (writeSelReg t p o rm sel) := by
  obtain ⟨w, v, -, hw | hw⟩ := writeSelReg_cases t p o rm sel
  · exact hw ▸ h.after_regWrite _ w _ v
  · exact hw ▸ h.after_draw.after_regWrite _ w _ v

theorem after_segWrite {k : SReg} {off : Word} {n : Nat} {v : Word} (hw : segWrite t k off n v = .next u) :
    SystemAndCsKept s u := by
  obtain ⟨as, -, -, rfl⟩ := segWrite_eq_next hw
  exact h.after_withMem _

theorem after_writeRM {p : Prefixes} {len : Nat} {w : Width} {v : Word} {rm : RM}
    (hw : writeRM t p len w v rm = .next u) : SystemAndCsKept s u := by
  cases rm with
  | reg n =>
    cases hw
    exact h.after_regWrite _ w _ v
  | mem m => exact h.after_segWrite hw

theorem after_setAccessedBit {sel : BitVec 16} {d : Word} (hw : setAccessedBit t sel d = .next u) :
    SystemAndCsKept s u := by
  obtain rfl | ⟨as, v, -, -, rfl⟩ := setAccessedBit_eq_next hw
  · exact h
  · exact h.after_withMem _

theorem after_loadNull {k : SReg} (hk : k ≠ .cs) (sel : BitVec 16) : SystemAndCsKept s (loadNull t k sel) := by
  unfold loadNull
  split
  · exact h.after_setSreg hk _
  · exact h.after_setSreg hk _
  · exact h.after_draw.after_draw.after_draw.after_setSreg hk _

theorem after_loadSeg {k : SReg} (hk : k ≠ .cs) {sel : BitVec 16} (hl : loadSeg t k sel = .next u) :
    SystemAndCsKept s u := by
  obtain ⟨-, rfl⟩ | ⟨-, rfl⟩ | ⟨-, -, -, -, rfl⟩ | ⟨-, -, -, d, t', -, -, ha, rfl⟩ := loadSeg_cases hl
  · exact h.after_setSreg hk _
  · exact h.after_draw.after_setSreg hk _
  · exact h.after_loadNull hk sel
  · exact (h.after_setAccessedBit ha).after_setSreg hk _

theorem after_completeLoad (before : Bool) (k : SReg) (len : Nat) :
    SystemAndCsKept s (completeLoad before k t len) := by
  unfold completeLoad
  split_ifs
  · exact h.after_draw.after_complete len _
  · exact h.after_complete len true
  · exact h.after_complete len false

/-! ## The values computed from the state (R33, R34, R37) -/

theorem mode_eq : t.mode = s.mode := by
  obtain ⟨hflags, hcr0, -, -, hefer, -, -, -, -, -, himpl⟩ := h.system
  exact mode_congr hcr0 hflags hefer h.cs himpl

theorem csD_eq : t.csD = s.csD := by simp only [State.csD, h.mode_eq, h.cs]

theorem acOn_eq : t.acOn = s.acOn := by
  obtain ⟨hflags, hcr0, -⟩ := h.system
  simp only [State.acOn, State.am, State.flagAC, hflags, hcr0]

end

end SystemAndCsKept

/-! ## What is kept through each move -/

/-- No shared move that completes writes the system state or CS; `moveToSreg` raises `#UD` for CS (R145). -/
theorem SharedMove.systemAndCsKept {i : Instr} {s t : State} {r : Res State} (hm : SharedMove i s r)
    (h : r = .next t) : SystemAndCsKept s t := by
  have hs := SystemAndCsKept.refl s
  cases hm with
  | toRM w rm v =>
    obtain ⟨u, hu, rfl⟩ := moveToRM_eq_next h
    exact (hs.after_writeRM hu).after_complete _ _
  | fromRM w reg rm =>
    obtain ⟨v, -, rfl⟩ := moveFromRM_eq_next h
    exact (hs.after_regWrite _ _ _ v).after_complete _ _
  | fromMoffs w m =>
    obtain ⟨v, -, rfl⟩ := moveFromMoffs_eq_next h
    exact (hs.after_regWrite _ _ _ v).after_complete _ _
  | toMoffs w m =>
    obtain ⟨u, hu, rfl⟩ := moveToMoffs_eq_next h
    exact (hs.after_segWrite hu).after_complete _ _
  | toOpReg w n v =>
    obtain rfl := moveToOpReg_eq_next h
    exact (hs.after_regWrite _ _ _ v).after_complete _ _
  | fromSreg o reg rm =>
    obtain ⟨-, -, k, -, ⟨n, -, rfl⟩ | ⟨m, u, -, hu, rfl⟩⟩ := moveFromSreg_eq_next h
    · exact (hs.after_writeSelReg _ _ _ _).after_complete _ _
    · exact (hs.after_segWrite hu).after_complete _ _
  | toSreg o reg rm =>
    obtain ⟨-, -, k, sel, u, -, hk, -, hu, rfl⟩ := moveToSreg_eq_next h
    exact (hs.after_loadSeg hk hu).after_completeLoad _ _ _

/-- No instruction that completes writes the system state or CS. -/
theorem exec_systemAndCsKept {i : Instr} {s t : State} (h : exec i s = .next t) : SystemAndCsKept s t :=
  (exec_sharedMove i s).systemAndCsKept h

/-- No step that completes writes the system state or CS. -/
theorem step_systemAndCsKept {s t : State} (h : step s = .next t) : SystemAndCsKept s t := by
  obtain ⟨i, -, -, hexec⟩ := step_eq_next h
  exact exec_systemAndCsKept hexec

/-- Settles O56: the step is one of the shared moves, none of which writes the system state or CS, and the mode, the default
size and `ac_on` are computed from these. -/
theorem stepKeepsModeAndSystemState : Obligations.StepKeepsModeAndSystemState := by
  unfold Obligations.StepKeepsModeAndSystemState
  intro s t h
  have hk := step_systemAndCsKept h
  exact ⟨hk.system, hk.cs, hk.mode_eq, hk.csD_eq, hk.acOn_eq⟩

end Sys2Proof.Machine

/-! PROOF. The family of 20_memory.md: stores into the program (O23), linear addresses (O26) and canonical addresses (O29).
First one equation per shared operation, then the moves that store to memory, then the statements. -/

namespace Sys2Proof.Machine

/-! ## Stores into the program (R70) -/

/-- A store with a byte in the program is refused (R70). -/
theorem storeAt_program {s : State} {as : List Nat} (v : Word) (hp : as.any (inRegions s.program) = true) :
    storeAt s as v = .refused .programStore := if_pos hp

/-- A write whose bytes resolve is the store at their addresses (R52). -/
theorem segWrite_of_dataAddrs {s : State} {k : SReg} {off : Word} {n : Nat} {as : List Nat} (v : Word)
    (hd : dataAddrs s k off n .write = .next as) : segWrite s k off n v = storeAt s as v := by
  simp [segWrite, hd]

/-- A write whose bytes resolve, one of them in the program, is refused (R52, R70). -/
theorem segWrite_program {s : State} {k : SReg} {off : Word} {n : Nat} {as : List Nat} (v : Word)
    (hd : dataAddrs s k off n .write = .next as) (hp : as.any (inRegions s.program) = true) :
    segWrite s k off n v = .refused .programStore :=
  (segWrite_of_dataAddrs v hd).trans (storeAt_program v hp)

/-! ## The storing moves without LOCK: the write, then completion -/

/-- A move without LOCK is the move itself, then completion: the encoding raises nothing (R100, R104). -/
theorem runMove_unlocked {i : Instr} {s : State} (move : Res State) (hl : i.prefixes.lock = false) :
    runMove i s move = andThen move fun t => .next (complete t i.length false) := by
  simp [runMove, encodingFault_unlocked hl]

theorem moveToRM_mem_unlocked {i : Instr} {w : Width} {m : MemRef} {v : Word} {s : State}
    (hl : i.prefixes.lock = false) :
    moveToRM i w (.mem m) v s =
      andThen (segWrite s (memSeg s i.prefixes m) (effAddr s i.prefixes i.length m) w.bytes v)
        fun t => .next (complete t i.length false) :=
  runMove_unlocked _ hl

theorem moveToMoffs_unlocked {i : Instr} {w : Width} {m : Moffs} {s : State} (hl : i.prefixes.lock = false) :
    moveToMoffs i w m s =
      andThen (segWrite s (moffsSeg s i.prefixes) (moffsValue m) w.bytes (regRead s 0 w true))
        fun t => .next (complete t i.length false) :=
  runMove_unlocked _ hl

/-- Opcode 8C to memory, where the encoding raises nothing and names a segment register (R140, R141, R144). -/
theorem moveFromSreg_mem_unlocked {i : Instr} {o : OpSize} {reg : BitVec 3} {k : SReg} {m : MemRef} {s : State}
    (hl : i.prefixes.lock = false) (hr : i.prefixes.r = false) (hk : sregOfField reg = some k) :
    moveFromSreg i o reg (.mem m) s =
      andThen (segWrite s (memSeg s i.prefixes m) (effAddr s i.prefixes i.length m) (sregMemBytes s o)
          ((s.sreg k).sel.setWidth 64))
        fun t => .next (complete t i.length false) := by
  simp [moveFromSreg, runSreg, encodingFault_unlocked hl, hr, hk]

/-! ## The storing moves into the program -/

theorem moveToRM_mem_program {i : Instr} {w : Width} {m : MemRef} {v : Word} {s : State} {as : List Nat}
    (hl : i.prefixes.lock = false) (hp : as.any (inRegions s.program) = true)
    (hd : dataAddrs s (memSeg s i.prefixes m) (effAddr s i.prefixes i.length m) w.bytes .write = .next as) :
    moveToRM i w (.mem m) v s = .refused .programStore := by
  rw [moveToRM_mem_unlocked hl, segWrite_program v hd hp, andThen_refused]

theorem moveToMoffs_program {i : Instr} {w : Width} {m : Moffs} {s : State} {as : List Nat}
    (hl : i.prefixes.lock = false) (hp : as.any (inRegions s.program) = true)
    (hd : dataAddrs s (moffsSeg s i.prefixes) (moffsValue m) w.bytes .write = .next as) :
    moveToMoffs i w m s = .refused .programStore := by
  rw [moveToMoffs_unlocked hl, segWrite_program _ hd hp, andThen_refused]

theorem moveFromSreg_mem_program {i : Instr} {o : OpSize} {reg : BitVec 3} {k : SReg} {m : MemRef} {s : State}
    {as : List Nat} (hl : i.prefixes.lock = false) (hp : as.any (inRegions s.program) = true)
    (hr : i.prefixes.r = false) (hk : sregOfField reg = some k)
    (hd : dataAddrs s (memSeg s i.prefixes m) (effAddr s i.prefixes i.length m) (sregMemBytes s o) .write = .next as) :
    moveFromSreg i o reg (.mem m) s = .refused .programStore := by
  rw [moveFromSreg_mem_unlocked hl hr hk, segWrite_program _ hd hp, andThen_refused]

/-- Settles O23: each storing form is one of the three shared storing moves, whose write is refused. -/
theorem storesIntoTheProgramRefused : Obligations.StoresIntoTheProgramRefused := by
  unfold Obligations.StoresIntoTheProgramRefused
  intro p reg k m o imm8 imm16 imm32 s as hl hp
  simp only [List.mem_cons, Prod.mk.injEq, List.not_mem_nil, or_false]
  refine ⟨?toRM, ?toMoffs, fun hr hk => ?fromSreg⟩
  case toRM =>
    rintro i n (⟨rfl, rfl⟩ | ⟨rfl, rfl⟩ | ⟨rfl, rfl⟩ | ⟨rfl, rfl⟩ | ⟨rfl, rfl⟩ | ⟨rfl, rfl⟩ | ⟨rfl, rfl⟩ |
      ⟨rfl, rfl⟩ | ⟨rfl, rfl⟩ | ⟨rfl, rfl⟩) hd <;>
    exact moveToRM_mem_program hl hp hd
  case toMoffs =>
    rintro i n (⟨rfl, rfl⟩ | ⟨rfl, rfl⟩ | ⟨rfl, rfl⟩ | ⟨rfl, rfl⟩ | ⟨rfl, rfl⟩) hd <;>
    exact moveToMoffs_program hl hp hd
  case fromSreg =>
    rintro i n (⟨rfl, rfl⟩ | ⟨rfl, rfl⟩) hd <;>
    exact moveFromSreg_mem_program hl hp hr hk hd

/-! ## Linear addresses (R51, R54) -/

@[simp] theorem wrapLinear_wide (la : Word) : wrapLinear true la = la := rfl

@[simp] theorem wrapLinear_narrow_toNat (la : Word) : (wrapLinear false la).toNat = la.toNat % 2 ^ 32 := by
  simp only [wrapLinear, Bool.false_eq_true, if_false, BitVec.toNat_setWidth, BitVec.extractLsb'_toNat, Nat.shiftRight_zero]
  omega

/-- Outside `Long64` every segment adds its base, in 32 bits (R54). -/
theorem linearAddr_of_ne_long64 {s : State} (k : SReg) (off : Word) (hm : s.mode ≠ .long64) :
    linearAddr s k off = wrapLinear false ((s.sreg k).base + off) := by
  cases h : s.mode <;> simp_all [linearAddr]

/-- In `Long64` only FS and GS add their base, in 64 bits (R54). -/
theorem linearAddr_of_long64 {s : State} (k : SReg) (off : Word) (hm : s.mode = .long64) :
    linearAddr s k off = if k = .fs ∨ k = .gs then (s.sreg k).base + off else off := by
  simp [linearAddr, hm]

/-- Settles O26, mode by mode. -/
theorem linearAddressOfAnOffset : Obligations.LinearAddressOfAnOffset := by
  unfold Obligations.LinearAddressOfAnOffset
  intro s k off
  refine ⟨fun hm => ?_, fun hm hfs hgs => ?_, fun hm hk => ?_⟩
  · rw [linearAddr_of_ne_long64 k off hm, wrapLinear_narrow_toNat, BitVec.toNat_add]
    omega
  · rw [linearAddr_of_long64 k off hm, if_neg (by simp [hfs, hgs])]
  · rw [linearAddr_of_long64 k off hm, if_pos hk]

/-! ## Canonical addresses (R56) -/

/-- A bit of the sign extension of the low `w + 1` bits: the address's own up to bit `w`, a copy of bit `w` above it. -/
theorem getLsbD_signExtend_low (a : Word) {w b : Nat} (hb : b < 64) :
    ((a.extractLsb' 0 (w + 1)).signExtend 64).getLsbD b = if b ≤ w then a.getLsbD b else a.getLsbD w := by
  rw [BitVec.getLsbD_signExtend, BitVec.msb_eq_getLsbD_last]
  by_cases hle : b ≤ w <;> simp [hb, hle]

/-- An address is the sign extension of its low `w + 1` bits when its bits from `w` up are all equal. -/
theorem signExtend_low_eq_iff (a : Word) {w : Nat} (hw : w < 64) :
    (a.extractLsb' 0 (w + 1)).signExtend 64 = a ↔ ∀ b, w ≤ b → b < 64 → a.getLsbD b = a.getLsbD 63 := by
  constructor
  · intro h
    have copyOfSign : ∀ b, w ≤ b → b < 64 → a.getLsbD b = a.getLsbD w := by
      intro b hwb hb
      have hbit := getLsbD_signExtend_low a (w := w) hb
      rw [h] at hbit
      split at hbit
      · next hle => rw [Nat.le_antisymm hle hwb]
      · exact hbit
    intro b hwb hb
    exact (copyOfSign b hwb hb).trans (copyOfSign 63 (by omega) (by decide)).symm
  · intro h
    refine BitVec.eq_of_getLsbD_eq fun b hb => ?_
    rw [getLsbD_signExtend_low a hb]
    split
    · rfl
    · next hgt => exact (h w le_rfl hw).trans (h b (by omega) hb).symm

theorem canonical_va48_iff (a : Word) :
    canonical .va48 a = true ↔ ∀ b, 47 ≤ b → b < 64 → a.getLsbD b = a.getLsbD 63 :=
  beq_iff_eq.trans (signExtend_low_eq_iff a (by decide))

theorem canonical_va57_iff (a : Word) :
    canonical .va57 a = true ↔ ∀ b, 56 ≤ b → b < 64 → a.getLsbD b = a.getLsbD 63 :=
  beq_iff_eq.trans (signExtend_low_eq_iff a (by decide))

/-! ## The canonical check of an access in `Long64` (R53, R56) -/

/-- In `Long64` there are no segment checks (R55). -/
theorem segFault_long64 {s : State} (k : SReg) (off : Word) (n : Nat) (kind : AccessKind) (hm : s.mode = .long64) :
    segFault s k off n kind = none := by simp [segFault, hm]

/-- Outside `Real` a code-0 exception has the code 0 (R57, R219). -/
theorem zeroCode_of_ne_real {s : State} (hm : s.mode ≠ .real) : s.zeroCode = .zero := if_neg hm

/-- The linear address of byte `j` of an access (R51). -/
theorem mem_byteAddrs {j n : Nat} (wide : Bool) (la : Word) (hj : j < n) :
    wrapLinear wide (la + BitVec.ofNat 64 j) ∈ byteAddrs wide la n :=
  List.mem_map_of_mem (List.mem_range.mpr hj)

/-- One byte at a non-canonical address fails the check of the whole access (R56). -/
theorem allCanonical_eq_false {s : State} {la : Word} {las : List Word} (hmem : la ∈ las)
    (hc : canonical s.impl.vaBits la = false) : allCanonical s las = false :=
  List.all_eq_false.mpr ⟨la, hmem, by simp [hc]⟩

/-- A canonical fault is the outcome of the access where the segment checks pass (R52, R56). -/
theorem dataAddrs_of_canonicalFault {s : State} {k : SReg} {off : Word} {n : Nat} {kind : AccessKind} {f : Fault}
    (hseg : segFault s k off n kind = none)
    (hc : canonicalFault s k (byteAddrs s.wideLinear (linearAddr s k off) n) = some f) :
    dataAddrs s k off n kind = .fault f := by
  simp [dataAddrs, hseg, hc]

/-- Settles O29: the segment checks are off in `Long64`, and byte `j` fails the canonical check. -/
theorem nonCanonicalAccessFaults : Obligations.NonCanonicalAccessFaults := by
  unfold Obligations.NonCanonicalAccessFaults
  refine ⟨fun a => ⟨canonical_va48_iff a, canonical_va57_iff a⟩, ?_⟩
  intro s k off n j kind hm hj hc
  have hwide : s.wideLinear = true := by simp [State.wideLinear, hm]
  have hall : allCanonical s (byteAddrs s.wideLinear (linearAddr s k off) n) = false :=
    allCanonical_eq_false (by simpa [hwide] using mem_byteAddrs true (linearAddr s k off) hj) hc
  have hfault : canonicalFault s k (byteAddrs s.wideLinear (linearAddr s k off) n) = some (s.addressFault k) :=
    if_pos ⟨hm, hall⟩
  rw [dataAddrs_of_canonicalFault (segFault_long64 k off n kind hm) hfault, State.addressFault,
    zeroCode_of_ne_real (by simp [hm])]

end Sys2Proof.Machine

/-! PROOF. The family of 30_encoding.md: REX outside `Long64` (O3), F2H and F3H (O5), RIP-relative addresses (O34) and LOCK
(O48). First what each stage of the decoder does when it answers, then the statements. -/

namespace Sys2Proof

/-! ## What each stage of the decoder does when it answers -/

/-- A sequence of two readings answers only when both do. -/
theorem except_bind_eq_ok {ε α β : Type} {r : Except ε α} {f : α → Except ε β} {b : β} (h : (r >>= f) = .ok b) :
    ∃ a, r = .ok a ∧ f a = .ok b := by
  cases r with
  | error e => cases h
  | ok a => exact ⟨a, rfl, h⟩

/-- A reading that is refused under a condition answers only as the reading itself. -/
theorem eq_ok_of_ite_error {ε α : Type} {c : Prop} [Decidable c] {e : ε} {x : Except ε α} {a : α}
    (h : (if c then .error e else x) = .ok a) : x = .ok a := by
  split at h
  · cases h
  · exact h

/-- Everything `decode` does when it answers: legacy prefixes, REX, opcode byte, form (R80). -/
theorem decode_eq_ok {c : Ctx} {bs rest : List Byte} {i : Instr} (h : decode c bs = .ok (i, rest)) :
    ∃ p q r r' op bs', readLegacy .empty bs = .ok (p, r) ∧ readRex c.mode p r = .ok (q, r') ∧
      readForm c q op bs' = .ok (i, rest) := by
  obtain ⟨⟨p, r⟩, hlegacy, h⟩ := except_bind_eq_ok h
  obtain ⟨⟨q, r'⟩, hrex, h⟩ := except_bind_eq_ok h
  obtain ⟨⟨op, bs'⟩, -, hform⟩ := except_bind_eq_ok h
  exact ⟨p, q, r, r', op, bs', hlegacy, hrex, hform⟩

/-- Where the legacy prefixes are refused, so are the bytes. -/
theorem decode_of_readLegacy_error {c : Ctx} {bs : List Byte} {e : Reject} (h : readLegacy .empty bs = .error e) :
    decode c bs = .error e := by
  simp only [decode, h]
  rfl

/-- F2H and F3H are refused by name (R106). -/
theorem readLegacy_rep (p : Prefixes) {b : Byte} (bs : List Byte) (hb : b = 0xF2#8 ∨ b = 0xF3#8) :
    readLegacy p (b :: bs) = .error .repPrefix := if_pos hb

/-- Everything `readLegacy` does with one byte when it answers: a byte outside the legacy prefixes ends the reading; one of
them is not F2H or F3H, is noted without touching REX, and the reading goes on. -/
theorem readLegacy_cons_eq_ok {p : Prefixes} {b : Byte} {bs : List Byte} {r : Prefixes × List Byte}
    (h : readLegacy p (b :: bs) = .ok r) :
    (isLegacyPrefix b = false ∧ r = (p, b :: bs)) ∨
      (¬ (b = 0xF2#8 ∨ b = 0xF3#8) ∧ ∃ p', p'.rex = p.rex ∧ readLegacy p' bs = .ok r) := by
  unfold readLegacy at h
  split at h
  · cases h
  next hrep =>
  split at h
  · exact .inr ⟨hrep, { p with lock := true }, rfl, eq_ok_of_ite_error h⟩
  next hlock =>
  split at h
  · exact .inr ⟨hrep, { p with opsz := true }, rfl, eq_ok_of_ite_error h⟩
  next hopsz =>
  split at h
  · exact .inr ⟨hrep, { p with adsz := true }, rfl, eq_ok_of_ite_error h⟩
  next hadsz =>
  split at h
  · next k _ => exact .inr ⟨hrep, { p with seg := some k }, rfl, eq_ok_of_ite_error h⟩
  next hseg =>
  cases h
  obtain ⟨hF2, hF3⟩ := not_or.mp hrep
  exact .inl ⟨by simp [isLegacyPrefix, hF2, hF3, hlock, hopsz, hadsz, hseg], rfl⟩

/-- The legacy prefixes leave the REX field as it was. -/
theorem readLegacy_rex {p q : Prefixes} {bs r : List Byte} (h : readLegacy p bs = .ok (q, r)) : q.rex = p.rex := by
  induction bs generalizing p with
  | nil => cases h
  | cons b bs ih =>
    obtain ⟨-, heq⟩ | ⟨-, p', hp', h'⟩ := readLegacy_cons_eq_ok h
    · cases heq
      rfl
    · exact (ih h').trans hp'

/-- Legacy prefixes that are read hold neither F2H nor F3H, wherever they stand (R106). -/
theorem readLegacy_no_rep {p : Prefixes} {pre bs : List Byte} {r : Prefixes × List Byte}
    (hpre : ∀ b ∈ pre, isLegacyPrefix b = true) (h : readLegacy p (pre ++ bs) = .ok r) :
    ∀ b ∈ pre, ¬ (b = 0xF2#8 ∨ b = 0xF3#8) := by
  induction pre generalizing p with
  | nil => simp
  | cons b pre ih =>
    obtain ⟨hb, hpre⟩ := List.forall_mem_cons.mp hpre
    obtain ⟨hnot, -⟩ | ⟨hrep, p', -, h'⟩ := readLegacy_cons_eq_ok h
    · simp [hb] at hnot
    · exact List.forall_mem_cons.mpr ⟨hrep, ih hpre h'⟩

/-- Outside `Long64` no byte is taken for REX (R82). -/
theorem readRex_of_ne_long64 {m : Mode} {p q : Prefixes} {bs r : List Byte} (hm : m ≠ .long64)
    (h : readRex m p bs = .ok (q, r)) : q = p := by
  cases bs with
  | nil => cases h
  | cons b bs =>
    simp only [readRex, hm, false_and, if_false] at h
    cases h
    rfl

/-! ## The rows selected without REX (R101, R102) -/

section
variable {a : AdSize} {bs rest : List Byte} {i : Instr}

/-- A form of class MR or RM answers its own row. -/
theorem readMR_eq_ok {f : BitVec 3 → RM → Instr} (h : readMR a f bs = .ok (i, rest)) : ∃ reg rm, i = f reg rm := by
  obtain ⟨⟨reg, rm, r⟩, -, h⟩ := except_bind_eq_ok h
  cases h
  exact ⟨reg, rm, rfl⟩

/-- A form of class FD or TD answers its own row. -/
theorem readFD_eq_ok {f : Moffs → Instr} (h : readFD a f bs = .ok (i, rest)) : ∃ m, i = f m := by
  obtain ⟨⟨m, r⟩, -, h⟩ := except_bind_eq_ok h
  cases h
  exact ⟨m, rfl⟩

/-- A form of class MI answers its own row, and only where ModRM.reg is 000 (R105). -/
theorem readMI_eq_ok {n : Nat} {op : Byte} {imm : List Byte → Except Reject (BitVec n × List Byte)}
    {f : RM → BitVec n → Instr} (h : readMI op a imm f bs = .ok (i, rest)) :
    ∃ rm v r, readModRM a bs = .ok (0#3, rm, r) ∧ i = f rm v := by
  obtain ⟨⟨reg, rm, r⟩, hmodrm, h⟩ := except_bind_eq_ok h
  obtain ⟨rfl, h⟩ | ⟨-, h⟩ := ite_eq_iff.mp h
  · obtain ⟨⟨v, r'⟩, -, h⟩ := except_bind_eq_ok h
    cases h
    exact ⟨rm, v, r, hmodrm, rfl⟩
  · cases h

/-- A form of class OI answers its own row. -/
theorem readOI_eq_ok {n : Nat} {imm : List Byte → Except Reject (BitVec n × List Byte)} {f : BitVec n → Instr}
    (h : readOI imm f bs = .ok (i, rest)) : ∃ v, i = f v := by
  obtain ⟨⟨v, r⟩, -, h⟩ := except_bind_eq_ok h
  cases h
  exact ⟨v, rfl⟩

end

/-- The operand size is 64 bits only with REX.W (R84). -/
theorem opSize_ne_o64 {c : Ctx} {p : Prefixes} (hp : p.w = false) : opSize c p ≠ .o64 := by
  unfold opSize
  split
  · simp only [hp, Bool.false_eq_true, if_false]
    split <;> decide
  · split <;> decide

/-- Without REX the opcode selects none of the fourteen REX rows, and the prefixes are kept in the instruction (R101, R102). -/
theorem readForm_without_rex {c : Ctx} {p : Prefixes} {op : Byte} {bs rest : List Byte} {i : Instr} (hp : p.rex = none)
    (h : readForm c p op bs = .ok (i, rest)) : i.prefixes = p ∧ Machine.isRexRow i = false := by
  have hrex : p.rexPresent = false := by simp [Prefixes.rexPresent, hp]
  have hw : p.w = false := by simp [Prefixes.w, hp]
  cases hsize : opSize c p with
  | o64 => exact absurd hsize (opSize_ne_o64 hw)
  | o16 | o32 =>
    rw [readForm, hrex, hw, hsize] at h
    -- In the order of the opcode map: 88 to 8E, A0 to A3, B0+ and B8+, C6 and C7.
    iterate 6
      obtain ⟨-, h⟩ | ⟨-, h⟩ := ite_eq_iff.mp h
      · obtain ⟨_, _, rfl⟩ := readMR_eq_ok h
        exact ⟨rfl, rfl⟩
    iterate 4
      obtain ⟨-, h⟩ | ⟨-, h⟩ := ite_eq_iff.mp h
      · obtain ⟨_, rfl⟩ := readFD_eq_ok h
        exact ⟨rfl, rfl⟩
    iterate 2
      obtain ⟨-, h⟩ | ⟨-, h⟩ := ite_eq_iff.mp h
      · obtain ⟨_, rfl⟩ := readOI_eq_ok h
        exact ⟨rfl, rfl⟩
    iterate 2
      obtain ⟨-, h⟩ | ⟨-, h⟩ := ite_eq_iff.mp h
      · obtain ⟨_, _, _, -, rfl⟩ := readMI_eq_ok h
        exact ⟨rfl, rfl⟩
    cases h

end Sys2Proof

namespace Sys2Proof.Machine

/-- Without `HAS_LONG_MODE` the modes that need it do not exist (R33, D37). -/
theorem mode_without_longMode {s : State} (h : s.impl.hasLongMode = false) : s.mode ≠ .long64 ∧ s.mode ≠ .compat := by
  have hlma : s.lma = false := by simp [State.lma, h]
  simp only [State.mode, hlma, Bool.false_eq_true, if_false]
  split_ifs <;> decide

/-- Settles O3: outside `Long64` the REX field stays empty through the prefixes, and without REX no REX row is selected. -/
theorem rexRowsOnlyInLong64 : Obligations.RexRowsOnlyInLong64 := by
  unfold Obligations.RexRowsOnlyInLong64
  refine ⟨fun c bs rest i hm h => ?_, fun s => mode_without_longMode⟩
  obtain ⟨p, q, r, r', op, bs', hlegacy, hrex, hform⟩ := decode_eq_ok h
  obtain rfl := readRex_of_ne_long64 hm hrex
  have hnone : q.rex = none := readLegacy_rex hlegacy
  obtain ⟨hprefixes, hrow⟩ := readForm_without_rex hnone hform
  exact ⟨hprefixes ▸ hnone, hrow⟩

/-- Settles O5: legacy prefixes that are read hold no F2H and no F3H, and either of them as the first byte is refused by name. -/
theorem repPrefixesRefused : Obligations.RepPrefixesRefused := by
  unfold Obligations.RepPrefixesRefused
  intro c pre bs hpre hrep
  refine ⟨fun ⟨i, rest⟩ h => ?never, fun hfirst => ?byName⟩
  case never =>
    obtain ⟨_, _, _, _, _, _, hlegacy, -⟩ := decode_eq_ok h
    have hnone := readLegacy_no_rep hpre hlegacy
    obtain hF2 | hF3 := hrep
    · exact hnone _ hF2 (.inl rfl)
    · exact hnone _ hF3 (.inr rfl)
  case byName =>
    cases pre with
    | nil => simp at hrep
    | cons b pre => exact decode_of_readLegacy_error (readLegacy_rep _ _ (by simpa using hfirst))

/-! ## RIP-relative addressing (R93, R94) -/

/-- In `Long64` a displacement without base or index counts from the end of the instruction (R93). -/
theorem effAddr_ripRelative {s : State} (p : Prefixes) (len : Nat) (d : BitVec 32) (hm : s.mode = .long64) :
    effAddr s p len (.disp32 d) =
      truncAd (if p.adsz then .a32 else .a64) (s.rip + BitVec.ofNat 64 len + d.signExtend 64) := by
  simp only [effAddr, adSize, State.ctx, hm]

theorem truncAd_a32_toNat (a : Word) : (truncAd .a32 a).toNat = a.toNat % 2 ^ 32 := by
  simp only [truncAd, BitVec.toNat_setWidth, BitVec.extractLsb'_toNat, Nat.shiftRight_zero]
  omega

/-- The sum of R93 as a number: the integer sum, modulo `2^64`. -/
theorem ripSum_toNat (pc : Word) (len : Nat) (d : BitVec 32) :
    (pc + BitVec.ofNat 64 len + d.signExtend 64).toNat = ((pc.toNat + len + d.toInt) % 2 ^ 64).toNat := by
  have hd : (d.signExtend 64).toNat = (d.toInt % 2 ^ 64).toNat := BitVec.toNat_ofInt d.toInt
  rw [BitVec.toNat_add, BitVec.toNat_add, BitVec.toNat_ofNat, hd]
  omega

/-- Settles O34: the address is the sum of R93, which 67H reduces modulo `2^32`. -/
theorem ripRelativeAddress : Obligations.RipRelativeAddress := by
  unfold Obligations.RipRelativeAddress
  intro s p len d hm
  refine ⟨fun hadsz => ?_, fun hadsz => ?_, rfl⟩
  · rw [effAddr_ripRelative p len d hm, hadsz]
    exact ripSum_toNat s.rip len d
  · rw [effAddr_ripRelative p len d hm, hadsz, if_pos rfl, truncAd_a32_toNat, ripSum_toNat]
    omega

/-! ## LOCK (R104) -/

/-- With LOCK the encoding raises `#UD`, or `#GP` where the sequence is too long as well (R100, R104). -/
theorem encodingFault_locked {s : State} {i : Instr} (hl : i.prefixes.lock = true) :
    encodingFault s i = some .ud ∨ (15 < i.length ∧ encodingFault s i = some (.gp s.zeroCode)) := by
  by_cases hlen : 15 < i.length
  · have hfaults : encodingFault s i = chooseFault s [.ud, .gp s.zeroCode] := by
      simp [encodingFault, hl, Config.maxInsnLen, hlen]
    obtain ⟨f, hf, hchosen⟩ := chooseFault_isSome (s := s) (fs := [.ud, .gp s.zeroCode]) (by simp)
    rw [hfaults, hchosen]
    simpa [hlen] using hf
  · exact .inl (by simp [encodingFault, hl, Config.maxInsnLen, hlen])

/-- Every shared move raises the exceptions of the encoding first (R222). -/
theorem SharedMove.of_encodingFault {i : Instr} {s : State} {r : Res State} {f : Fault} (hm : SharedMove i s r)
    (hf : encodingFault s i = some f) : r = .fault f := by
  have hguard : ∀ k : Res State, guardFault (encodingFault s i) k = .fault f := fun k => by rw [hf, guardFault_some]
  cases hm <;> exact hguard _

/-- Settles O48: the move of every form is one of the shared moves, which the exception of the encoding stops. -/
theorem lockRaisesInvalidOpcode : Obligations.LockRaisesInvalidOpcode := by
  unfold Obligations.LockRaisesInvalidOpcode
  intro i s hl
  have hm := exec_sharedMove i s
  obtain hud | ⟨hlen, hgp⟩ := encodingFault_locked (s := s) hl
  · exact .inl (hm.of_encodingFault hud)
  · exact .inr ⟨hlen, hm.of_encodingFault hgp⟩

end Sys2Proof.Machine

/-! PROOF. The family of 41_mov_sreg.md: loads of a segment register (O37, O44, O45, O46), CS (O49) and the interrupt
inhibition (O59). First what 8E does once the encoding raises nothing; then, each before the statements that use it, the selector
operand, the checks of a descriptor as conditions on its bits, and the completion of a load. -/

namespace Sys2Proof.Machine

/-! ## Opcode 8E without LOCK and REX.R (R142 to R145, R161) -/

/-- The condition on the instruction `i` and the operand size `o` under which the statements speak of both rows of opcode 8E
at once (R142, R143). -/
def IsSregLoad (p : Prefixes) (reg : BitVec 3) (rm : RM) (s : State) (i : Instr) (o : OpSize) : Prop :=
  (i = .movSregRm16 p reg rm ∧ o = opSize s.ctx p) ∨ (i = .movSregRm64 p reg rm ∧ o = .o64)

/-- Both rows of opcode 8E are the one shared move. -/
theorem IsSregLoad.exec_eq {p : Prefixes} {reg : BitVec 3} {rm : RM} {s : State} {i : Instr} {o : OpSize}
    (hi : IsSregLoad p reg rm s i o) : exec i s = moveToSreg i o reg rm s ∧ i.prefixes = p := by
  obtain ⟨rfl, rfl⟩ | ⟨rfl, rfl⟩ := hi
  · exact ⟨rfl, rfl⟩
  · exact ⟨rfl, rfl⟩

/-- The numbers of CS and of no segment register are `#UD`, before the operand is read (R144, R145, R161). -/
theorem moveToSreg_ud {i : Instr} {o : OpSize} {reg : BitVec 3} {rm : RM} {s : State} (hl : i.prefixes.lock = false)
    (hr : i.prefixes.r = false) (hreg : reg = 1#3 ∨ reg = 6#3 ∨ reg = 7#3) : moveToSreg i o reg rm s = .fault .ud := by
  obtain rfl | rfl | rfl := hreg <;> simp [moveToSreg, runSreg, encodingFault_unlocked hl, hr, sregOfField]

/-- A load of any other segment register reads the selector, runs `LoadSeg`, then completes (R161). -/
theorem moveToSreg_unlocked {i : Instr} {o : OpSize} {reg : BitVec 3} {rm : RM} {k : SReg} {s : State}
    (hl : i.prefixes.lock = false) (hr : i.prefixes.r = false) (hk : sregOfField reg = some k) (hcs : k ≠ .cs) :
    moveToSreg i o reg rm s =
      andThen (readSel s i.prefixes i.length o rm) fun sel =>
        andThen (loadSeg s k sel) fun t => .next (completeLoad s.ssInhibit k t i.length) := by
  cases k with
  | cs => exact absurd rfl hcs
  | _ => simp [moveToSreg, runSreg, encodingFault_unlocked hl, hr, hk]

section
variable {p : Prefixes} {reg : BitVec 3} {rm : RM} {k : SReg} {s : State} {i : Instr} {o : OpSize}

theorem IsSregLoad.exec_ud (hi : IsSregLoad p reg rm s i o) (hl : p.lock = false) (hr : p.r = false)
    (hreg : reg = 1#3 ∨ reg = 6#3 ∨ reg = 7#3) : exec i s = .fault .ud := by
  obtain ⟨hexec, rfl⟩ := hi.exec_eq
  exact hexec.trans (moveToSreg_ud hl hr hreg)

theorem IsSregLoad.exec_unlocked (hi : IsSregLoad p reg rm s i o) (hl : p.lock = false) (hr : p.r = false)
    (hk : sregOfField reg = some k) (hcs : k ≠ .cs) :
    exec i s = andThen (readSel s p i.length o rm) fun sel =>
      andThen (loadSeg s k sel) fun t => .next (completeLoad s.ssInhibit k t i.length) := by
  obtain ⟨hexec, rfl⟩ := hi.exec_eq
  exact hexec.trans (moveToSreg_unlocked hl hr hk hcs)

/-- Once the selector is read, the outcome is that of `LoadSeg`, completed (R161). -/
theorem IsSregLoad.exec_of_readSel {sel : BitVec 16} (hi : IsSregLoad p reg rm s i o) (hl : p.lock = false)
    (hr : p.r = false) (hk : sregOfField reg = some k) (hcs : k ≠ .cs) (hsel : readSel s p i.length o rm = .next sel) :
    exec i s = andThen (loadSeg s k sel) fun t => .next (completeLoad s.ssInhibit k t i.length) := by
  rw [hi.exec_unlocked hl hr hk hcs, hsel, andThen_next]

/-- A fault of `LoadSeg` is the outcome of the instruction (R161). -/
theorem IsSregLoad.exec_of_loadSeg_fault {sel : BitVec 16} {f : Fault} (hi : IsSregLoad p reg rm s i o)
    (hl : p.lock = false) (hr : p.r = false) (hk : sregOfField reg = some k) (hcs : k ≠ .cs)
    (hsel : readSel s p i.length o rm = .next sel) (hf : loadSeg s k sel = .fault f) : exec i s = .fault f := by
  rw [hi.exec_of_readSel hl hr hk hcs hsel, hf, andThen_fault]

end

/-! ## The selector operand (R142, R143) -/

/-- The two bytes at the front are the low word of the value read (R50). -/
theorem readAll_low_word (m : Memory) (a b : Nat) (rest : List Nat) :
    (m.readAll (a :: b :: rest)).extractLsb' 0 16 = m.read b ++ m.read a := by
  simp only [Memory.readAll, List.map_cons, leValue]
  apply BitVec.eq_of_getLsbD_eq
  intro j hj
  rw [BitVec.getLsbD_append]
  by_cases hlow : j < 8
  · have hin : j < 64 := by omega
    simp [hlow, hj, hin]
  · have hhigh : j - 8 < 8 := by omega
    have hin : j < 64 := by omega
    simp [hlow, hhigh, hj, hin, BitVec.getLsbD_of_ge (m.read a) j (by omega)]

theorem readSel_reg (s : State) (p : Prefixes) (len : Nat) (o : OpSize) (n : BitVec 3) :
    readSel s p len o (.reg n) = .next ((s.getX (rmNum p n)).extractLsb' 0 16) := rfl

theorem readSel_mem {s : State} {p : Prefixes} {len : Nat} {o : OpSize} {m : MemRef} {as : List Nat}
    (h : dataAddrs s (memSeg s p m) (effAddr s p len m) (sregMemBytes s o) .read = .next as) :
    readSel s p len o (.mem m) = .next ((s.mem.readAll as).extractLsb' 0 16) := by
  simp [readSel, segRead, h]

/-- Settles O46: the encoding, the operand and `LoadSeg` follow each other in `moveToSreg`. -/
theorem operandFaultComesBeforeLoadSeg : Obligations.OperandFaultComesBeforeLoadSeg := by
  unfold Obligations.OperandFaultComesBeforeLoadSeg
  refine ⟨fun s p len o => ⟨readSel_reg s p len o, fun m a b rest h => ?_⟩, ?_⟩
  · rw [readSel_mem h, readAll_low_word]
  intro p reg rm s hl hr i o (hi : IsSregLoad p reg rm s i o)
  refine ⟨hi.exec_ud hl hr, fun k hk hcs => ⟨fun f hf => ?operandFault, fun f hf => ?operandRefused,
    fun sel hsel => ⟨fun f hf => hi.exec_of_loadSeg_fault hl hr hk hcs hsel hf, fun f hf => ?loadRefused⟩⟩⟩
  case operandFault => rw [hi.exec_unlocked hl hr hk hcs, hf, andThen_fault]
  case operandRefused => rw [hi.exec_unlocked hl hr hk hcs, hf, andThen_refused]
  case loadRefused => rw [hi.exec_of_readSel hl hr hk hcs hsel, hf, andThen_refused]

/-! ## The checks of a descriptor (R151 to R154) -/

/-- A selector that is not NULL is loaded from its descriptor in the modes that check a load (R148, R150). -/
theorem loadSeg_of_checkedMode {s : State} {k : SReg} {sel : BitVec 16} (hm : checkedMode s.mode)
    (hsel : 4 ≤ sel.toNat) : loadSeg s k sel = loadDescriptor s k sel := by
  have hnull : isNull sel = false := by
    simp only [isNull, beq_eq_false_iff_ne, ne_eq, ← BitVec.toNat_inj, BitVec.extractLsb'_toNat,
      Nat.shiftRight_eq_div_pow, BitVec.toNat_ofNat]
    omega
  obtain hm | hm | hm := hm <;> simp [loadSeg, hm, hnull]

/-- A test on the descriptor's contents that fails is the outcome of `LoadSeg` (R148). -/
theorem loadSeg_of_descFault {s : State} {k : SReg} {sel : BitVec 16} {d : Word} {f : Fault} (hm : checkedMode s.mode)
    (hsel : 4 ≤ sel.toNat) (hd : readDesc s k sel = .next d) (hf : descFault s k sel d = some f) :
    loadSeg s k sel = .fault f := by
  simp [loadSeg_of_checkedMode hm hsel, loadDescriptor, hd, hf]

/-- The tests of a load of SS are one condition on the bits of selector and descriptor (R30, R152). -/
theorem ssLoadFault_eq (s : State) (sel : BitVec 16) (d : Word) :
    ssLoadFault s sel d =
      if sel.extractLsb' 0 2 ≠ s.cpl ∨ d.extractLsb' 45 2 ≠ s.cpl ∨ d.getLsbD 44 = false ∨ d.getLsbD 43 = true ∨
        d.getLsbD 41 = false then some (.gp (.selector sel)) else none := by
  have hwritable : descWritableData d = false ↔ d.getLsbD 44 = false ∨ d.getLsbD 43 = true ∨ d.getLsbD 41 = false := by
    simp only [descWritableData, descIsData, descS, Bool.and_eq_false_iff, Bool.not_eq_false', or_assoc]
  simp only [ssLoadFault, selRpl, descDpl, hwritable]
  grind

/-- `PrivFail` under the rule `both` (R153). -/
theorem privFail_both (rpl cpl dpl : BitVec 2) : privFail .both rpl cpl dpl = true ↔ dpl < rpl ∧ dpl < cpl := by
  simp [privFail]

/-- `PrivFail` under the rule `either` (R153). -/
theorem privFail_either (rpl cpl dpl : BitVec 2) : privFail .either rpl cpl dpl = true ↔ dpl < rpl ∨ dpl < cpl := by
  simp [privFail]

/-- Both numbers above DPL fail under either rule (R153). -/
theorem privFail_of_both_above {rpl cpl dpl : BitVec 2} (rule : PrivRule) (h : dpl < rpl ∧ dpl < cpl) :
    privFail rule rpl cpl dpl = true := by
  cases rule with
  | both => exact (privFail_both rpl cpl dpl).mpr h
  | either => exact (privFail_either rpl cpl dpl).mpr (.inl h.1)

/-- What passes: both numbers at most DPL, or under the rule `both` one of them (R153). -/
theorem privFail_eq_false {rule : PrivRule} {rpl cpl dpl : BitVec 2}
    (h : (rpl ≤ dpl ∧ cpl ≤ dpl) ∨ (rule = .both ∧ (rpl ≤ dpl ∨ cpl ≤ dpl))) : privFail rule rpl cpl dpl = false := by
  rw [← Bool.not_eq_true]
  cases rule with
  | both =>
    rw [privFail_both]
    bv_omega
  | either =>
    obtain hle | ⟨hrule, -⟩ := h
    · rw [privFail_either]
      bv_omega
    · cases hrule

section
variable {s : State} {sel : BitVec 16} {d : Word}

/-- The tests of a load of DS, ES, FS or GS on the bits of selector and descriptor: the kind of the segment, then the
privilege (R30, R153). -/
theorem dataLoadFault_eq :
    dataLoadFault s sel d =
      if d.getLsbD 44 = false ∨ (d.getLsbD 43 = true ∧ d.getLsbD 41 = false) then some (.gp (.selector sel))
      else if (d.getLsbD 43 = false ∨ d.getLsbD 42 = false) ∧
        privFail s.impl.dataSegPrivRule (sel.extractLsb' 0 2) s.cpl (d.extractLsb' 45 2) = true then
        some (.gp (.selector sel))
      else none := by
  have hkind : (descIsData d || (descIsCode d && d.getLsbD 41)) = false ↔
      d.getLsbD 44 = false ∨ (d.getLsbD 43 = true ∧ d.getLsbD 41 = false) := by
    grind [descIsData, descIsCode, descS]
  have htested : (descIsData d || (descIsCode d && !d.getLsbD 42)) = true ↔
      d.getLsbD 44 = true ∧ (d.getLsbD 43 = false ∨ d.getLsbD 42 = false) := by
    grind [descIsData, descIsCode, descS]
  unfold dataLoadFault
  simp only [hkind, htested]
  grind [selRpl, descDpl]

/-- A system descriptor and a code segment that is not readable are not loaded (R153). -/
theorem dataLoadFault_of_kind (h : d.getLsbD 44 = false ∨ (d.getLsbD 43 = true ∧ d.getLsbD 41 = false)) :
    dataLoadFault s sel d = some (.gp (.selector sel)) := by
  rw [dataLoadFault_eq, if_pos h]

/-- A data or nonconforming code segment is not loaded where the privilege test fails (R153). -/
theorem dataLoadFault_of_privFail (hkind : d.getLsbD 43 = false ∨ d.getLsbD 42 = false)
    (hpriv : privFail s.impl.dataSegPrivRule (sel.extractLsb' 0 2) s.cpl (d.extractLsb' 45 2) = true) :
    dataLoadFault s sel d = some (.gp (.selector sel)) := by
  rw [dataLoadFault_eq, if_pos (c := _ ∧ _) ⟨hkind, hpriv⟩, ite_self]

/-- What DS, ES, FS and GS accept: data or readable code, and, unless it is conforming code, no failure of the privilege
test (R153). -/
theorem dataLoadFault_eq_none (hs : d.getLsbD 44 = true) (hkind : d.getLsbD 43 = false ∨ d.getLsbD 41 = true)
    (hpriv : (d.getLsbD 43 = true ∧ d.getLsbD 42 = true) ∨
      privFail s.impl.dataSegPrivRule (sel.extractLsb' 0 2) s.cpl (d.extractLsb' 45 2) = false) :
    dataLoadFault s sel d = none := by
  rw [dataLoadFault_eq, if_neg (by grind), if_neg (by grind)]

/-- A load of SS: its own tests, then the present test (R148). -/
theorem descFault_ss : descFault s .ss sel d = (ssLoadFault s sel d).or (presentFault .ss sel d) := by
  cases h : ssLoadFault s sel d <;> simp [descFault, h]

/-- A load of another register: the tests of a data segment, then the present test (R148). -/
theorem descFault_of_ne_ss {k : SReg} (hk : k ≠ .ss) :
    descFault s k sel d = (dataLoadFault s sel d).or (presentFault k sel d) := by
  cases h : dataLoadFault s sel d <;> simp [descFault, h, hk]

/-- A segment that is not present (R154). -/
theorem presentFault_absent (k : SReg) (hp : d.getLsbD 47 = false) :
    presentFault k sel d = some (if k = .ss then .ss (.selector sel) else .np sel) := if_pos hp

end

/-- Settles O44: each test that fails is the outcome of `LoadSeg`, and the present test counts once the others pass. -/
theorem stackSegmentChecks : Obligations.StackSegmentChecks := by
  unfold Obligations.StackSegmentChecks
  intro p rm sel d s hl hr hm hsel hd i o (hi : IsSregLoad p 2 rm s i o) hread
  have hfault : ∀ f, descFault s .ss sel d = some f → exec i s = .fault f := fun f hf =>
    hi.exec_of_loadSeg_fault hl hr rfl (by decide) hread (loadSeg_of_descFault hm hsel hd hf)
  refine ⟨fun h => hfault _ ?refused, fun hrpl hdpl hs hdata hwritable hp => hfault _ ?absent⟩
  case refused => rw [descFault_ss, ssLoadFault_eq, if_pos h, Option.some_or]
  case absent =>
    have hpass : ssLoadFault s sel d = none := by rw [ssLoadFault_eq, if_neg (by grind)]
    rw [descFault_ss, hpass, Option.none_or, presentFault_absent _ hp, if_pos rfl]

/-- Settles O45: the kind of the segment and its privilege are tested before its presence. -/
theorem dataSegmentChecks : Obligations.DataSegmentChecks := by
  unfold Obligations.DataSegmentChecks
  intro p reg rm k sel d s hl hr hk hcs hss hm hsel hd i o (hi : IsSregLoad p reg rm s i o) hread
  have hfault : ∀ f, descFault s k sel d = some f → exec i s = .fault f := fun f hf =>
    hi.exec_of_loadSeg_fault hl hr hk hcs hread (loadSeg_of_descFault hm hsel hd hf)
  have hgp : dataLoadFault s sel d = some (.gp (.selector sel)) → exec i s = .fault (.gp (.selector sel)) := fun h =>
    hfault _ (by rw [descFault_of_ne_ss hss, h, Option.some_or])
  refine ⟨fun hkind => hgp (dataLoadFault_of_kind hkind),
    fun _ hkind habove => hgp (dataLoadFault_of_privFail hkind (privFail_of_both_above _ habove)),
    fun _ hkind hrule habove => hgp (dataLoadFault_of_privFail hkind ?_), fun hs hkind hpriv hp => hfault _ ?_⟩
  · rwa [hrule, privFail_either]
  · rw [descFault_of_ne_ss hss, dataLoadFault_eq_none hs hkind (hpriv.imp_right privFail_eq_false), Option.none_or,
      presentFault_absent k hp, if_neg hss]

/-! ## Completing a load (R39, R156, R158) -/

section
variable (before : Bool) (k : SReg) (t : State) (len : Nat)

/-- Everything `completeLoad` can do: completion, after a free value has been used or not (R158). -/
theorem completeLoad_cases :
    ∃ b, completeLoad before k t len = complete t len b ∨ completeLoad before k t len = complete t.draw.2 len b := by
  unfold completeLoad
  split_ifs
  · exact ⟨_, .inr rfl⟩
  · exact ⟨_, .inl rfl⟩
  · exact ⟨_, .inl rfl⟩

@[simp] theorem completeLoad_rip : (completeLoad before k t len).rip = nextPc t len := by
  obtain ⟨b, h | h⟩ := completeLoad_cases before k t len <;> simp [h]

@[simp] theorem completeLoad_mem : (completeLoad before k t len).mem = t.mem := by
  obtain ⟨b, h | h⟩ := completeLoad_cases before k t len <;> simp [h]

@[simp] theorem completeLoad_getX (j : BitVec 4) : (completeLoad before k t len).getX j = t.getX j := by
  obtain ⟨b, h | h⟩ := completeLoad_cases before k t len <;> simp [h]

@[simp] theorem completeLoad_sreg (j : SReg) : (completeLoad before k t len).sreg j = t.sreg j := by
  obtain ⟨b, h | h⟩ := completeLoad_cases before k t len <;> simp [h]

theorem completeLoad_ssInhibit_of_ne_ss {k : SReg} (hk : k ≠ .ss) :
    (completeLoad before k t len).ssInhibit = false := by
  simp [completeLoad, hk]

theorem completeLoad_ssInhibit_ss : (completeLoad false .ss t len).ssInhibit = true := by
  simp [completeLoad]

end

/-- A load of `k`, completed, from a state `t` that differs from `s` at most in memory and in the free values used: what it
leaves alone, where `pc` goes, and the inhibition (R25, R39, R156). -/
theorem sregMove_setSreg {i : Instr} {k : SReg} {s t : State} (r : SegReg) (hcs : k ≠ .cs) (hregs : RegsKept s t)
    (hsregs : ∀ j, t.sreg j = s.sreg j) (hkept : SystemAndCsKept s t) (hrip : t.rip = s.rip) :
    SregMove i k s (completeLoad s.ssInhibit k (t.setSreg k r) i.length) := by
  have hpc : nextPc (t.setSreg k r) i.length = nextPc s i.length := by
    simp only [nextPc, setSreg_mode t r hcs, setSreg_rip, hkept.mode_eq, hrip]
  refine ⟨fun j => ?_, fun j hj => ?_, ((hkept.after_setSreg hcs r).after_completeLoad _ _ _).system,
    ⟨fun hm => ?_, fun hm => ?_⟩, completeLoad_ssInhibit_of_ne_ss _ _ _, ?_⟩
  · rw [completeLoad_getX, getX_setSreg, hregs j]
  · rw [completeLoad_sreg, sreg_setSreg_other t r hj, hsregs j]
  · rw [completeLoad_rip, hpc, nextPc, hm]
  · rw [completeLoad_rip, hpc, nextPc_toNat _ hm]
  · rintro rfl hoff
    rw [hoff, completeLoad_ssInhibit_ss]

/-! ## The load of `Real` and `V86` (R149) -/

/-- Sixteen times a selector (R149). -/
theorem selector_shiftLeft_toNat (sel : BitVec 16) : (sel.setWidth 64 <<< 4 : Word).toNat = sel.toNat * 16 := by
  simp only [BitVec.toNat_shiftLeft, BitVec.toNat_setWidth, Nat.shiftLeft_eq]
  omega

theorem loadSeg_real {s : State} (k : SReg) (sel : BitVec 16) (hm : s.mode = .real) :
    loadSeg s k sel = .next (loadReal s k sel) := by
  simp [loadSeg, hm]

theorem loadSeg_v86 {s : State} (k : SReg) (sel : BitVec 16) (hm : s.mode = .v86) :
    loadSeg s k sel = .next (loadV86 s k sel) := by
  simp [loadSeg, hm]

/-- The attributes of a load in `V86` are those of a writable data segment that expands up, whatever the accessed bit is
(R149). -/
theorem writable_expandUp_of_type {a : SegAttr} {accessed : BitVec 1} (h : a.type = 0b001#3 ++ accessed) :
    a.writable = true ∧ a.expandDown = false := by
  simp only [SegAttr.writable, SegAttr.expandDown, SegAttr.isCode, h, BitVec.getLsbD_append]
  exact ⟨rfl, rfl⟩

/-- Settles O37: `LoadSeg` answers without a check in either mode, and writes the one segment register. -/
theorem segmentLoadWithoutChecks : Obligations.SegmentLoadWithoutChecks := by
  unfold Obligations.SegmentLoadWithoutChecks
  intro p reg rm k sel s hl hr hk hcs hm i o (hi : IsSregLoad p reg rm s i o) hread
  rw [hi.exec_of_readSel hl hr hk hcs hread]
  obtain hm | hm := hm
  · rw [loadSeg_real k sel hm]
    refine ⟨_, rfl, ?_⟩
    rw [completeLoad_sreg, loadReal, sreg_setSreg_same]
    refine ⟨rfl, selector_shiftLeft_toNat sel, rfl, fun _ => ⟨rfl, rfl⟩, fun hv86 => ?_, fun a => ?_,
      sregMove_setSreg _ hcs (fun _ => rfl) (fun _ => rfl) (.refl s) rfl⟩
    · cases hm.symm.trans hv86
    · rw [completeLoad_mem, setSreg_mem]
  · rw [loadSeg_v86 k sel hm]
    refine ⟨_, rfl, ?_⟩
    rw [completeLoad_sreg, loadV86, sreg_setSreg_same]
    refine ⟨rfl, selector_shiftLeft_toNat sel, rfl, fun hreal => ?_,
      fun _ => ⟨rfl, (writable_expandUp_of_type rfl).1, (writable_expandUp_of_type rfl).2, rfl, rfl, rfl⟩,
      fun a => ?_, sregMove_setSreg _ hcs (getX_draw s) (sreg_draw s) (SystemAndCsKept.refl s).after_draw rfl⟩
    · cases hm.symm.trans hreal
    · rw [completeLoad_mem, setSreg_mem, draw_mem]

/-! ## CS (R145) -/

/-- A register written at 16 bits or more has the low word of the value (R23). -/
theorem getX_regWrite_low_word (s : State) (n : BitVec 4) {w : Width} (rex : Bool) (v : Word) (hw : w ≠ .w8) :
    ((regWrite s n w rex v).getX n).extractLsb' 0 16 = v.extractLsb' 0 16 := by
  cases w with
  | w8 => exact absurd rfl hw
  | w16 =>
    simp only [regWrite, getX_setX_same]
    rw [BitVec.extractLsb'_append_eq_of_add_le (by decide), BitVec.extractLsb'_eq_self]
  | w32 =>
    have hlow : ∀ high : BitVec 32, (high ++ v.extractLsb' 0 32).extractLsb' 0 16 = v.extractLsb' 0 16 := fun high => by
      rw [BitVec.extractLsb'_append_eq_of_add_le (by decide), BitVec.extractLsb'_extractLsb'_of_le (by decide)]
    simp only [regWrite]
    split <;> rw [getX_setX_same, hlow]
  | w64 => simp only [regWrite, getX_setX_same]

/-- A register that 8C has written has the selector in its low word, at any operand size (R140, R141). -/
theorem getX_writeSelReg_low_word (s : State) (p : Prefixes) (o : OpSize) (rm : BitVec 3) (sel : BitVec 16) :
    ((writeSelReg s p o rm sel).getX (rmNum p rm)).extractLsb' 0 16 = sel := by
  have hsel : (sel.setWidth 64).extractLsb' 0 16 = sel := by
    rw [BitVec.extractLsb'_setWidth_of_le (by decide), BitVec.extractLsb'_eq_self]
  cases o with
  | o16 => exact (getX_regWrite_low_word s _ _ _ (by decide)).trans hsel
  | o32 =>
    simp only [writeSelReg]
    split
    · exact (getX_regWrite_low_word s _ _ _ (by decide)).trans hsel
    · rw [getX_regWrite_low_word s.draw.2 _ _ _ (by decide), BitVec.extractLsb'_setWidth_of_le (by decide),
        BitVec.extractLsb'_append_eq_of_add_le (by decide), BitVec.extractLsb'_eq_self]
  | o64 => exact (getX_regWrite_low_word s _ _ _ (by decide)).trans hsel

/-- Opcode 8C to a register, where the encoding raises nothing and names a segment register (R140, R141, R144). -/
theorem moveFromSreg_reg_unlocked {i : Instr} {o : OpSize} {reg : BitVec 3} {k : SReg} {n : BitVec 3} {s : State}
    (hl : i.prefixes.lock = false) (hr : i.prefixes.r = false) (hk : sregOfField reg = some k) :
    moveFromSreg i o reg (.reg n) s =
      .next (complete (writeSelReg s i.prefixes o n (s.sreg k).sel) i.length false) := by
  simp [moveFromSreg, runSreg, encodingFault_unlocked hl, hr, hk]

/-- Settles O49: CS is `#UD` for 8E before the operand is read, and a register like the others for 8C. -/
theorem loadOfCsRaisesInvalidOpcode : Obligations.LoadOfCsRaisesInvalidOpcode := by
  unfold Obligations.LoadOfCsRaisesInvalidOpcode
  intro p rm n s hl hr
  have hud : ∀ i o, IsSregLoad p 1 rm s i o → exec i s = .fault .ud := fun i o hi => hi.exec_ud hl hr (.inl rfl)
  have hread : ∀ (i : Instr) (o : OpSize), i.prefixes = p → moveFromSreg i o 1 (.reg n) s =
      .next (complete (writeSelReg s p o n s.seg.cs.sel) i.length false) := by
    rintro i o rfl
    exact moveFromSreg_reg_unlocked hl hr (k := .cs) rfl
  exact ⟨hud _ _ (.inl ⟨rfl, rfl⟩), hud _ _ (.inr ⟨rfl, rfl⟩),
    ⟨_, hread (.movRm16Sreg p 1 (.reg n)) _ rfl, getX_writeSelReg_low_word s p _ n _⟩,
    ⟨_, hread (.movRm64Sreg p 1 (.reg n)) .o64 rfl, getX_setX_same s (rmNum p n) _⟩⟩

/-! ## The inhibition (R39, R156) -/

theorem sregOfField_eq_ss {reg : BitVec 3} : sregOfField reg = some .ss ↔ reg = 2#3 := by
  revert reg
  decide

/-- Everything an instruction can do when it answers: completion without an inhibition, or opcode 8E. -/
theorem exec_eq_next {i : Instr} {s t : State} (h : exec i s = .next t) :
    (∃ u, t = complete u i.length false) ∨ ∃ p reg rm o, IsSregLoad p reg rm s i o := by
  cases i with
  | movRm8R8 | movRm8R8Rex | movRm16R16 | movRm32R32 | movRm64R64
  | movRm8Imm8 | movRm8Imm8Rex | movRm16Imm16 | movRm32Imm32 | movRm64Imm32 =>
    obtain ⟨u, -, ht⟩ := moveToRM_eq_next h
    exact .inl ⟨u, ht⟩
  | movR8Rm8 | movR8Rm8Rex | movR16Rm16 | movR32Rm32 | movR64Rm64 =>
    obtain ⟨v, -, ht⟩ := moveFromRM_eq_next h
    exact .inl ⟨_, ht⟩
  | movAlMoffs8 | movAlMoffs8RexW | movAxMoffs16 | movEaxMoffs32 | movRaxMoffs64 =>
    obtain ⟨v, -, ht⟩ := moveFromMoffs_eq_next h
    exact .inl ⟨_, ht⟩
  | movMoffs8Al | movMoffs8AlRexW | movMoffs16Ax | movMoffs32Eax | movMoffs64Rax =>
    obtain ⟨u, -, ht⟩ := moveToMoffs_eq_next h
    exact .inl ⟨u, ht⟩
  | movR8Imm8 | movR8Imm8Rex | movR16Imm16 | movR32Imm32 | movR64Imm64 =>
    exact .inl ⟨_, moveToOpReg_eq_next h⟩
  | movRm16Sreg | movRm64Sreg =>
    obtain ⟨-, -, k, -, ⟨n, -, ht⟩ | ⟨m, u, -, -, ht⟩⟩ := moveFromSreg_eq_next h
    · exact .inl ⟨_, ht⟩
    · exact .inl ⟨u, ht⟩
  | movSregRm16 p reg rm => exact .inr ⟨p, reg, rm, _, .inl ⟨rfl, rfl⟩⟩
  | movSregRm64 p reg rm => exact .inr ⟨p, reg, rm, _, .inr ⟨rfl, rfl⟩⟩

/-- Settles O59: only `completeLoad` of SS leaves an inhibition. -/
theorem inhibitionFollowsLoadsOfSs : Obligations.InhibitionFollowsLoadsOfSs := by
  unfold Obligations.InhibitionFollowsLoadsOfSs
  intro i s t h
  refine ⟨fun hother => ?other, fun hss hoff => ?ss⟩
  case other =>
    obtain ⟨u, rfl⟩ | ⟨p, reg, rm, o, hi⟩ := exec_eq_next h
    · rfl
    · obtain ⟨-, -, k, sel, u, hk, -, -, -, rfl⟩ := moveToSreg_eq_next (hi.exec_eq.1.symm.trans h)
      refine completeLoad_ssInhibit_of_ne_ss _ u _ fun hkss => ?_
      obtain rfl := sregOfField_eq_ss.mp (hkss ▸ hk)
      obtain ⟨rfl, -⟩ | ⟨rfl, -⟩ := hi
      · exact (hother p rm).1 rfl
      · exact (hother p rm).2 rfl
  case ss =>
    have hload : ∃ p rm o, IsSregLoad p 2 rm s i o := by
      obtain ⟨p, rm, rfl | rfl⟩ := hss
      · exact ⟨p, rm, _, .inl ⟨rfl, rfl⟩⟩
      · exact ⟨p, rm, _, .inr ⟨rfl, rfl⟩⟩
    obtain ⟨p, rm, o, hi⟩ := hload
    obtain ⟨-, -, k, sel, u, hk, -, -, -, rfl⟩ := moveToSreg_eq_next (hi.exec_eq.1.symm.trans h)
    obtain rfl : k = .ss := (Option.some.inj hk).symm
    rw [hoff, completeLoad_ssInhibit_ss]

end Sys2Proof.Machine

/-! PROOF. The family of 60_exceptions.md: the error codes as the processor pushes them (O52). -/

namespace Sys2Proof.Machine

/-! ## Error codes (R210, R219) -/

/-- The mask `FFFCH` drops RPL and keeps index and TI (R219). -/
theorem selector_and_fffc (sel : BitVec 16) : sel &&& (0xFFFC : BitVec 16) = (sel >>> 2) <<< 2 := by
  ext i hi
  interval_cases i <;> simp

/-- As a number, the selector without RPL is rounded down to a multiple of 4. -/
theorem selector_and_fffc_toNat (sel : BitVec 16) : (sel &&& (0xFFFC : BitVec 16)).toNat = sel.toNat / 4 * 4 := by
  rw [selector_and_fffc, BitVec.toNat_shiftLeft, BitVec.toNat_ushiftRight, Nat.shiftRight_eq_div_pow,
    Nat.shiftLeft_eq]
  omega

/-- Widening the code to 32 bits (log 27) keeps its value. -/
theorem ErrorCode.pushed_selector (sel : BitVec 16) :
    ∃ v : BitVec 32, v.toNat = sel.toNat / 4 * 4 ∧ (ErrorCode.selector sel).pushed = some v := by
  refine ⟨(sel &&& 0xFFFC).setWidth 32, ?_, rfl⟩
  rw [BitVec.toNat_setWidth_of_le (by decide), selector_and_fffc_toNat]

/-- Settles O52: `#GP`, `#SS` and `#NP` with a selector push one code, that of the selector; the other codes are those of
the definition. -/
theorem pushedErrorCodes : Obligations.PushedErrorCodes := by
  unfold Obligations.PushedErrorCodes
  refine ⟨fun sel => ?selector, rfl, rfl, rfl, rfl, rfl, rfl, fun _ _ => rfl⟩
  case selector =>
    obtain ⟨v, hv, hpushed⟩ := ErrorCode.pushed_selector sel
    exact ⟨v, hv, hpushed, hpushed, hpushed⟩

end Sys2Proof.Machine

/-! PROOF. The decoder and the encoder of 30_encoding.md (O1, O2, O4, O6, O8): the readers of a field give back what its
bytes were made of and nothing else, then ModRM, the prefixes, the opcode map and the statements. -/

namespace Sys2Proof

/-! ## Fields of bytes (R50, R87) -/

theorem readU8_cons (v : BitVec 8) (rest : List Byte) : readU8 (v :: rest) = .ok (v, rest) := rfl

theorem readU16_bytes16 (v : BitVec 16) (rest : List Byte) : readU16 (bytes16 v ++ rest) = .ok (v, rest) := by
  have hv : v.extractLsb' 8 8 ++ v.extractLsb' 0 8 = v := by
    rw [BitVec.extractLsb'_append_extractLsb'_eq_extractLsb' (by decide), BitVec.extractLsb'_eq_self]
  simp only [bytes16, List.cons_append, List.nil_append, readU16, hv]

theorem readU32_bytes32 (v : BitVec 32) (rest : List Byte) : readU32 (bytes32 v ++ rest) = .ok (v, rest) := by
  have hv : v.extractLsb' 24 8 ++ v.extractLsb' 16 8 ++ v.extractLsb' 8 8 ++ v.extractLsb' 0 8 = v := by
    repeat rw [BitVec.extractLsb'_append_extractLsb'_eq_extractLsb' (by decide)]
    exact BitVec.extractLsb'_eq_self
  simp only [bytes32, List.cons_append, List.nil_append, readU32, hv]

theorem readU64_bytes64 (v : BitVec 64) (rest : List Byte) : readU64 (bytes64 v ++ rest) = .ok (v, rest) := by
  have hv : v.extractLsb' 56 8 ++ v.extractLsb' 48 8 ++ v.extractLsb' 40 8 ++ v.extractLsb' 32 8 ++
      v.extractLsb' 24 8 ++ v.extractLsb' 16 8 ++ v.extractLsb' 8 8 ++ v.extractLsb' 0 8 = v := by
    repeat rw [BitVec.extractLsb'_append_extractLsb'_eq_extractLsb' (by decide)]
    exact BitVec.extractLsb'_eq_self
  simp only [bytes64, List.cons_append, List.nil_append, readU64, hv]

theorem fields233_byte233 (hi : BitVec 2) (mid lo : BitVec 3) : fields233 (byte233 hi mid lo) = (hi, mid, lo) := by
  revert hi mid lo
  decide

theorem byte233_fields233 (b : Byte) : byte233 (b.extractLsb' 6 2) (b.extractLsb' 3 3) (b.extractLsb' 0 3) = b := by
  rw [byte233, BitVec.append_assoc, BitVec.cast_eq,
    BitVec.extractLsb'_append_extractLsb'_eq_extractLsb' (by decide),
    BitVec.extractLsb'_append_extractLsb'_eq_extractLsb' (by decide)]
  exact BitVec.extractLsb'_eq_self

theorem extractLsb'_append_byte_low {w : Nat} (hi : BitVec w) (lo : Byte) : (hi ++ lo).extractLsb' 0 8 = lo := by
  rw [BitVec.extractLsb'_append_eq_of_add_le (by omega), BitVec.extractLsb'_eq_self]

theorem extractLsb'_append_byte_high {w : Nat} (hi : BitVec w) (lo : Byte) (k n : Nat) :
    (hi ++ lo).extractLsb' (k + 8) n = hi.extractLsb' k n := by
  rw [BitVec.extractLsb'_append_eq_of_le (by omega), Nat.add_sub_cancel]

theorem readU8_eq_ok {bs rest : List Byte} {v : BitVec 8} (h : readU8 bs = .ok (v, rest)) : bs = v :: rest := by
  unfold readU8 at h
  split at h
  · cases h
    rfl
  · cases h

theorem readU16_eq_ok {bs rest : List Byte} {v : BitVec 16} (h : readU16 bs = .ok (v, rest)) :
    bs = bytes16 v ++ rest := by
  unfold readU16 at h
  split at h
  · cases h
    simp [bytes16, extractLsb'_append_byte_low, extractLsb'_append_byte_high]
  · cases h

theorem readU32_eq_ok {bs rest : List Byte} {v : BitVec 32} (h : readU32 bs = .ok (v, rest)) :
    bs = bytes32 v ++ rest := by
  unfold readU32 at h
  split at h
  · cases h
    simp [bytes32, extractLsb'_append_byte_low, extractLsb'_append_byte_high]
  · cases h

theorem readU64_eq_ok {bs rest : List Byte} {v : BitVec 64} (h : readU64 bs = .ok (v, rest)) :
    bs = bytes64 v ++ rest := by
  unfold readU64 at h
  split at h
  · cases h
    simp [bytes64, extractLsb'_append_byte_low, extractLsb'_append_byte_high]
  · cases h

/-! ## Displacements, memory operands and ModRM (R87 to R93) -/

theorem Disp.mod_ne_three {w : Nat} (d : Disp w) : d.mod ≠ 3#2 := by cases d <;> simp [Disp.mod]

theorem Disp.mod_eq_zero {w : Nat} {d : Disp w} : d.mod = 0#2 ↔ d = .none := by cases d <;> simp [Disp.mod]

/-- The three values of `mod` that announce memory. -/
theorem mod_cases {md : BitVec 2} (h : md ≠ 3#2) : md = 0#2 ∨ md = 1#2 ∨ md = 2#2 := by
  revert md
  decide

theorem base16Of_rm (b : Base16) : base16Of b.rm = b := by cases b <;> rfl

theorem rm_base16Of (rm : BitVec 3) : (base16Of rm).rm = rm := by
  revert rm
  decide

theorem Base16.rm_eq_six {b : Base16} : b.rm = 6#3 ↔ b = .bp := by cases b <;> decide

theorem readDisp16_dispBytes (d : Disp 16) (rest : List Byte) :
    readDisp16 d.mod (dispBytes16 d ++ rest) = .ok (d, rest) := by
  cases d with
  | none => rfl
  | short d => rfl
  | full d =>
    simp only [readDisp16, Disp.mod, dispBytes16, readU16_bytes16]
    rfl

theorem readDisp32_dispBytes (d : Disp 32) (rest : List Byte) :
    readDisp32 d.mod (dispBytes32 d ++ rest) = .ok (d, rest) := by
  cases d with
  | none => rfl
  | short d => rfl
  | full d =>
    simp only [readDisp32, Disp.mod, dispBytes32, readU32_bytes32]
    rfl

theorem readDisp16_eq_ok {md : BitVec 2} {bs rest : List Byte} {d : Disp 16} (hmd : md ≠ 3#2)
    (h : readDisp16 md bs = .ok (d, rest)) : md = d.mod ∧ bs = dispBytes16 d ++ rest := by
  obtain rfl | rfl | rfl := mod_cases hmd
  · cases h
    exact ⟨rfl, rfl⟩
  · obtain ⟨⟨v, r⟩, hv, h⟩ := except_bind_eq_ok h
    cases h
    exact ⟨rfl, readU8_eq_ok hv⟩
  · obtain ⟨⟨v, r⟩, hv, h⟩ := except_bind_eq_ok h
    cases h
    exact ⟨rfl, readU16_eq_ok hv⟩

theorem readDisp32_eq_ok {md : BitVec 2} {bs rest : List Byte} {d : Disp 32} (hmd : md ≠ 3#2)
    (h : readDisp32 md bs = .ok (d, rest)) : md = d.mod ∧ bs = dispBytes32 d ++ rest := by
  obtain rfl | rfl | rfl := mod_cases hmd
  · cases h
    exact ⟨rfl, rfl⟩
  · obtain ⟨⟨v, r⟩, hv, h⟩ := except_bind_eq_ok h
    cases h
    exact ⟨rfl, readU8_eq_ok hv⟩
  · obtain ⟨⟨v, r⟩, hv, h⟩ := except_bind_eq_ok h
    cases h
    exact ⟨rfl, readU32_eq_ok hv⟩

/-- With 16-bit addressing ModRM names the memory operand that the bytes after it give (R88, R89). -/
theorem readModRM_of_readMem16 {md : BitVec 2} {rm : BitVec 3} {bs rest : List Byte} {m : MemRef} (reg : BitVec 3)
    (hmd : md ≠ 3#2) (h : readMem16 md rm bs = .ok (m, rest)) :
    readModRM .a16 (byte233 md reg rm :: bs) = .ok (reg, .mem m, rest) := by
  simp only [readModRM, readU8_cons, bind, Except.bind, fields233_byte233, if_neg hmd, if_true, h]
  rfl

/-- With 32- and 64-bit addressing ModRM names the memory operand that the bytes after it give (R88, R90, R91). -/
theorem readModRM_of_readMem32 {a : AdSize} {md : BitVec 2} {rm : BitVec 3} {bs rest : List Byte} {m : MemRef}
    (reg : BitVec 3) (ha : a ≠ .a16) (hmd : md ≠ 3#2) (h : readMem32 md rm bs = .ok (m, rest)) :
    readModRM a (byte233 md reg rm :: bs) = .ok (reg, .mem m, rest) := by
  simp only [readModRM, readU8_cons, bind, Except.bind, fields233_byte233, if_neg hmd, if_neg ha, h]
  rfl

/-- The bytes of an operand "ModRM:r/m" that belongs to the address size are read back (R87 to R92). -/
theorem readModRM_bytes {a : AdSize} {rm : RM} (reg : BitVec 3) (rest : List Byte) (hwf : rm.wf a = true) :
    readModRM a (rm.bytes reg ++ rest) = .ok (reg, rm, rest) := by
  cases rm with
  | reg n =>
    simp only [RM.bytes, List.cons_append, List.nil_append, readModRM, readU8_cons, bind, Except.bind, fields233_byte233]
    rfl
  | mem m =>
    cases m <;> simp only [RM.bytes, List.cons_append]
    case based16 b d =>
      simp only [RM.wf, MemRef.wf, Bool.and_eq_true, beq_iff_eq, Bool.not_eq_true', Bool.and_eq_false_iff,
        beq_eq_false_iff_ne] at hwf
      obtain ⟨rfl, hspecial⟩ := hwf
      refine readModRM_of_readMem16 reg d.mod_ne_three ?_
      rw [readMem16, if_neg (by rw [Disp.mod_eq_zero, Base16.rm_eq_six]; tauto), readDisp16_dispBytes, base16Of_rm]
      rfl
    case abs16 d =>
      obtain rfl := eq_of_beq hwf
      refine readModRM_of_readMem16 reg (by decide) ?_
      rw [readMem16, if_pos (by decide), readU16_bytes16]
      rfl
    case based n d =>
      simp only [RM.wf, MemRef.wf, Bool.and_eq_true, bne_iff_ne, Bool.not_eq_true', Bool.and_eq_false_iff,
        beq_eq_false_iff_ne] at hwf
      obtain ⟨⟨ha, hsib⟩, hspecial⟩ := hwf
      refine readModRM_of_readMem32 reg ha d.mod_ne_three ?_
      rw [readMem32, if_neg hsib, if_neg (by rw [Disp.mod_eq_zero]; tauto), readDisp32_dispBytes]
      rfl
    case disp32 d =>
      refine readModRM_of_readMem32 reg (bne_iff_ne.mp hwf) (by decide) ?_
      rw [readMem32, if_neg (by decide), if_pos (by decide), readU32_bytes32]
      rfl
    case sib sc ix b d =>
      simp only [RM.wf, MemRef.wf, Bool.and_eq_true, bne_iff_ne, Bool.not_eq_true', Bool.and_eq_false_iff,
        beq_eq_false_iff_ne] at hwf
      obtain ⟨ha, hspecial⟩ := hwf
      refine readModRM_of_readMem32 reg ha d.mod_ne_three ?_
      rw [readMem32, if_pos (by decide)]
      simp only [readU8_cons, bind, Except.bind, fields233_byte233]
      rw [if_neg (by rw [Disp.mod_eq_zero]; tauto), readDisp32_dispBytes]
      rfl
    case sibAbs sc ix d =>
      refine readModRM_of_readMem32 reg (bne_iff_ne.mp hwf) (by decide) ?_
      simp only [readMem32, readU8_cons, bind, Except.bind, fields233_byte233]
      rw [if_pos (by decide), readU32_bytes32]
      rfl

/-- Everything `readMem16` does when it answers: the operand belongs to 16-bit addressing, and the bytes are its own. -/
theorem readMem16_eq_ok {md : BitVec 2} {rm : BitVec 3} {bs rest : List Byte} {m : MemRef} (hmd : md ≠ 3#2)
    (h : readMem16 md rm bs = .ok (m, rest)) :
    m.wf .a16 = true ∧ ∀ reg, byte233 md reg rm :: bs = (RM.mem m).bytes reg ++ rest := by
  unfold readMem16 at h
  split at h
  · next hspecial =>
    obtain ⟨rfl, rfl⟩ := hspecial
    obtain ⟨⟨d, r⟩, hd, h⟩ := except_bind_eq_ok h
    cases h
    obtain rfl := readU16_eq_ok hd
    exact ⟨rfl, fun _ => rfl⟩
  · next hspecial =>
    obtain ⟨⟨d, r⟩, hd, h⟩ := except_bind_eq_ok h
    cases h
    obtain ⟨rfl, rfl⟩ := readDisp16_eq_ok hmd hd
    rw [Disp.mod_eq_zero, ← rm_base16Of rm, Base16.rm_eq_six] at hspecial
    refine ⟨?_, fun reg => by simp [RM.bytes, rm_base16Of]⟩
    simp only [MemRef.wf, Bool.and_eq_true, beq_iff_eq, Bool.not_eq_true', Bool.and_eq_false_iff, beq_eq_false_iff_ne]
    tauto

/-- Everything `readMem32` does when it answers: the operand belongs to 32- and 64-bit addressing, and the bytes are its
own. -/
theorem readMem32_eq_ok {a : AdSize} {md : BitVec 2} {rm : BitVec 3} {bs rest : List Byte} {m : MemRef} (ha : a ≠ .a16)
    (hmd : md ≠ 3#2) (h : readMem32 md rm bs = .ok (m, rest)) :
    m.wf a = true ∧ ∀ reg, byte233 md reg rm :: bs = (RM.mem m).bytes reg ++ rest := by
  unfold readMem32 at h
  split at h
  · next hsib =>
    obtain ⟨⟨s, r⟩, hs, hafter⟩ := except_bind_eq_ok h
    obtain rfl := readU8_eq_ok hs
    obtain rfl := hsib
    have hbyte := byte233_fields233 s
    obtain ⟨⟨rfl, hbase⟩, hsib⟩ | ⟨hspecial, hsib⟩ := ite_eq_iff.mp hafter
    · obtain ⟨⟨d, r⟩, hd, h⟩ := except_bind_eq_ok hsib
      cases h
      obtain rfl := readU32_eq_ok hd
      rw [hbase] at hbyte
      exact ⟨bne_iff_ne.mpr ha, fun reg => by simp [RM.bytes, hbyte]⟩
    · obtain ⟨⟨d, r⟩, hd, h⟩ := except_bind_eq_ok hsib
      cases h
      obtain ⟨rfl, rfl⟩ := readDisp32_eq_ok hmd hd
      rw [Disp.mod_eq_zero] at hspecial
      refine ⟨?_, fun reg => by simp [RM.bytes, hbyte]⟩
      simp only [MemRef.wf, Bool.and_eq_true, bne_iff_ne, Bool.not_eq_true', Bool.and_eq_false_iff, beq_eq_false_iff_ne]
      tauto
  · next hsib =>
    split at h
    · next hspecial =>
      obtain ⟨rfl, rfl⟩ := hspecial
      obtain ⟨⟨d, r⟩, hd, h⟩ := except_bind_eq_ok h
      cases h
      obtain rfl := readU32_eq_ok hd
      exact ⟨bne_iff_ne.mpr ha, fun _ => rfl⟩
    · next hspecial =>
      obtain ⟨⟨d, r⟩, hd, h⟩ := except_bind_eq_ok h
      cases h
      obtain ⟨rfl, rfl⟩ := readDisp32_eq_ok hmd hd
      rw [Disp.mod_eq_zero] at hspecial
      refine ⟨?_, fun _ => rfl⟩
      simp only [MemRef.wf, Bool.and_eq_true, bne_iff_ne, Bool.not_eq_true', Bool.and_eq_false_iff, beq_eq_false_iff_ne]
      tauto

/-- Everything `readModRM` does when it answers: the operand belongs to the address size, and the bytes are its own. -/
theorem readModRM_eq_ok {a : AdSize} {bs rest : List Byte} {reg : BitVec 3} {rm : RM}
    (h : readModRM a bs = .ok (reg, rm, rest)) : rm.wf a = true ∧ bs = rm.bytes reg ++ rest := by
  obtain ⟨⟨b, r⟩, hb, hafter⟩ := except_bind_eq_ok h
  obtain rfl := readU8_eq_ok hb
  have hbyte := byte233_fields233 b
  obtain ⟨hmd, hreg⟩ | ⟨hmd, hmem⟩ := ite_eq_iff.mp hafter
  · cases hreg
    rw [hmd] at hbyte
    exact ⟨rfl, by simp [RM.bytes, hbyte]⟩
  · obtain ⟨ha, h16⟩ | ⟨ha, h32⟩ := ite_eq_iff.mp hmem
    · obtain ⟨⟨m, r'⟩, hm, h⟩ := except_bind_eq_ok h16
      cases h
      obtain ⟨hwf, hbytes⟩ := readMem16_eq_ok hmd hm
      exact ⟨ha ▸ hwf, by rw [← hbytes, hbyte]⟩
    · obtain ⟨⟨m, r'⟩, hm, h⟩ := except_bind_eq_ok h32
      cases h
      obtain ⟨hwf, hbytes⟩ := readMem32_eq_ok ha hmd hm
      exact ⟨hwf, by rw [← hbytes, hbyte]⟩

/-- The first byte of an operand "ModRM:r/m" holds the `reg` field (R87). -/
theorem RM.bytes_head (rm : RM) (reg : BitVec 3) : ∃ md lo tl, rm.bytes reg = byte233 md reg lo :: tl := by
  cases rm with
  | reg n => exact ⟨_, _, _, rfl⟩
  | mem m => cases m <;> exact ⟨_, _, _, rfl⟩

theorem readMoffs_bytes {a : AdSize} {m : Moffs} (rest : List Byte) (hwf : m.wf a = true) :
    readMoffs a (m.bytes ++ rest) = .ok (m, rest) := by
  cases m <;> cases a <;>
    simp_all [Moffs.wf, Moffs.bytes, readMoffs, readU16_bytes16, readU32_bytes32, readU64_bytes64, bind, Except.bind, pure,
      Except.pure]

theorem readMoffs_eq_ok {a : AdSize} {bs rest : List Byte} {m : Moffs} (h : readMoffs a bs = .ok (m, rest)) :
    m.wf a = true ∧ bs = m.bytes ++ rest := by
  cases a with
  | a16 =>
    obtain ⟨⟨o, r⟩, ho, h⟩ := except_bind_eq_ok h
    cases h
    exact ⟨rfl, readU16_eq_ok ho⟩
  | a32 =>
    obtain ⟨⟨o, r⟩, ho, h⟩ := except_bind_eq_ok h
    cases h
    exact ⟨rfl, readU32_eq_ok ho⟩
  | a64 =>
    obtain ⟨⟨o, r⟩, ho, h⟩ := except_bind_eq_ok h
    cases h
    exact ⟨rfl, readU64_eq_ok ho⟩

/-! ## Prefixes (R81 to R83) -/

theorem rexOfByte_byte (x : Rex) : rexOfByte x.byte = x := by
  obtain ⟨w, r, x, b⟩ := x
  revert w r x b
  decide

theorem isRexByte_byte (x : Rex) : isRexByte x.byte = true := by
  obtain ⟨w, r, x, b⟩ := x
  revert w r x b
  decide

theorem isLegacyPrefix_byte (x : Rex) : isLegacyPrefix x.byte = false := by
  obtain ⟨w, r, x, b⟩ := x
  revert w r x b
  decide

/-- A byte outside the legacy prefixes ends their reading. -/
theorem readLegacy_stop (p : Prefixes) {b : Byte} (bs : List Byte) (hb : isLegacyPrefix b = false) :
    readLegacy p (b :: bs) = .ok (p, b :: bs) := by
  simp only [isLegacyPrefix, Bool.or_eq_false_iff, beq_eq_false_iff_ne, Option.isSome_eq_false_iff,
    Option.isNone_iff_eq_none] at hb
  obtain ⟨⟨⟨⟨⟨hlock, hF2⟩, hF3⟩, hopsz⟩, hadsz⟩, hseg⟩ := hb
  simp [readLegacy, hlock, hF2, hF3, hopsz, hadsz, hseg]

theorem readLegacy_lock {p : Prefixes} (bs : List Byte) (h : p.lock = false) :
    readLegacy p (0xF0#8 :: bs) = readLegacy { p with lock := true } bs := by
  simp [readLegacy, h]

theorem readLegacy_opsz {p : Prefixes} (bs : List Byte) (h : p.opsz = false) :
    readLegacy p (0x66#8 :: bs) = readLegacy { p with opsz := true } bs := by
  simp [readLegacy, h]

theorem readLegacy_adsz {p : Prefixes} (bs : List Byte) (h : p.adsz = false) :
    readLegacy p (0x67#8 :: bs) = readLegacy { p with adsz := true } bs := by
  simp [readLegacy, h]

theorem readLegacy_seg {p : Prefixes} (k : SReg) (bs : List Byte) (h : p.seg = none) :
    readLegacy p (segOverrideByte k :: bs) = readLegacy { p with seg := some k } bs := by
  cases k <;> simp [readLegacy, segOverrideByte, segOverride, h]

/-- The legacy prefixes that the encoder writes are read back, up to the first other byte (R81, R83). -/
theorem readLegacy_bytes {p : Prefixes} {b : Byte} (bs : List Byte) (hrex : p.rex = none)
    (hb : isLegacyPrefix b = false) : readLegacy .empty (p.bytes ++ b :: bs) = .ok (p, b :: bs) := by
  obtain ⟨lock, seg, opsz, adsz, rex⟩ := p
  obtain rfl := hrex
  cases lock <;> cases seg <;> cases opsz <;> cases adsz <;>
    simp [Prefixes.bytes, Prefixes.empty, readLegacy_lock, readLegacy_seg, readLegacy_opsz, readLegacy_adsz,
      readLegacy_stop _ _ hb]

/-- The encoder writes REX last. -/
theorem Prefixes.bytes_of_rex {p : Prefixes} {x : Rex} (h : p.rex = some x) :
    p.bytes = { p with rex := none }.bytes ++ [x.byte] := by
  simp [Prefixes.bytes, h]

/-- A byte that is not taken for REX ends the prefixes (R82). -/
theorem readRex_stop {m : Mode} (p : Prefixes) {op : Byte} (bs : List Byte) (hop : m = .long64 → isRexByte op = false) :
    readRex m p (op :: bs) = .ok (p, op :: bs) := by
  refine if_neg ?_
  rintro ⟨hm, hbyte⟩
  simp [hop hm] at hbyte

/-- In `Long64` a REX byte directly before the opcode is read (R82, R83). -/
theorem readRex_rex (p : Prefixes) (x : Rex) {op : Byte} (bs : List Byte) (hlegacy : isLegacyPrefix op = false)
    (hop : isRexByte op = false) :
    readRex .long64 p (x.byte :: op :: bs) = .ok ({ p with rex := some x }, op :: bs) := by
  simp [readRex, isRexByte_byte, rexOfByte_byte, hlegacy, hop]

/-- After the prefixes that the encoder writes, the opcode byte selects the form (R80, R81, R82). -/
theorem decode_prefixes {c : Ctx} {p : Prefixes} {op : Byte} (bs : List Byte) (hp : p.wf c = true)
    (hlegacy : isLegacyPrefix op = false) (hop : c.mode = .long64 → isRexByte op = false) :
    decode c (p.bytes ++ op :: bs) = readForm c p op bs := by
  cases hrex : p.rex with
  | none =>
    simp only [decode, readLegacy_bytes bs hrex hlegacy, bind, Except.bind, readRex_stop p bs hop, readU8_cons]
  | some x =>
    have hm : c.mode = .long64 := by simpa [Prefixes.wf, hrex] using hp
    have hwhole : { { p with rex := none } with rex := some x } = p := by
      cases p
      simp_all
    rw [Prefixes.bytes_of_rex hrex, List.append_assoc, List.singleton_append]
    simp only [decode, readLegacy_bytes (p := { p with rex := none }) (op :: bs) rfl (isLegacyPrefix_byte x), bind,
      Except.bind, hm, readRex_rex _ x bs hlegacy (hop hm), readU8_cons, hwhole]

/-! ## The opcode map forwards: what is read from the bytes of an operand (R86, R101) -/

section
variable {a : AdSize} {rm : RM} {m : Moffs}

theorem readMR_bytes (f : BitVec 3 → RM → Instr) (reg : BitVec 3) (rest : List Byte) (h : rm.wf a = true) :
    readMR a f (rm.bytes reg ++ rest) = .ok (f reg rm, rest) := by
  simp only [readMR, readModRM_bytes reg rest h]
  rfl

theorem readFD_bytes (f : Moffs → Instr) (rest : List Byte) (h : m.wf a = true) :
    readFD a f (m.bytes ++ rest) = .ok (f m, rest) := by
  simp only [readFD, readMoffs_bytes rest h]
  rfl

theorem readMI_bytes {n : Nat} {op : Byte} {imm : List Byte → Except Reject (BitVec n × List Byte)} {v : BitVec n}
    {bs rest : List Byte} (f : RM → BitVec n → Instr) (h : rm.wf a = true) (himm : imm bs = .ok (v, rest)) :
    readMI op a imm f (rm.bytes 0 ++ bs) = .ok (f rm v, rest) := by
  simp only [readMI, readModRM_bytes 0 bs h, bind, Except.bind, himm]
  rfl

theorem readOI_bytes {n : Nat} {imm : List Byte → Except Reject (BitVec n × List Byte)} {v : BitVec n}
    {bs rest : List Byte} (f : BitVec n → Instr) (himm : imm bs = .ok (v, rest)) :
    readOI imm f bs = .ok (f v, rest) := by
  simp only [readOI, himm]
  rfl

end

/-- An opcode `B0 + r` or `B8 + r` is none of the prefixes, nor an opcode before these in the map (R81, R82, R101). -/
theorem opcodeReg_other {hi : BitVec 5} (r : BitVec 3) (hhi : hi = 0b10110#5 ∨ hi = 0b10111#5) :
    isLegacyPrefix (hi ++ r) = false ∧ isRexByte (hi ++ r) = false ∧
      ∀ op ∈ [0x88#8, 0x89#8, 0x8A#8, 0x8B#8, 0x8C#8, 0x8E#8, 0xA0#8, 0xA1#8, 0xA2#8, 0xA3#8], hi ++ r ≠ op := by
  obtain rfl | rfl := hhi <;>
  · revert r
    decide

theorem opcodeReg_fields (hi : BitVec 5) (r : BitVec 3) :
    (hi ++ r).extractLsb' 3 5 = hi ∧ (hi ++ r).extractLsb' 0 3 = r := by
  revert hi r
  decide

theorem readForm_B0 (c : Ctx) (p : Prefixes) (r : BitVec 3) (bs : List Byte) :
    readForm c p (0b10110#5 ++ r) bs =
      if p.rexPresent then readOI readU8 (.movR8Imm8Rex p r) bs else readOI readU8 (.movR8Imm8 p r) bs := by
  obtain ⟨-, -, hother⟩ := opcodeReg_other r (.inl rfl)
  obtain ⟨hop, hreg⟩ := opcodeReg_fields 0b10110#5 r
  simp only [List.forall_mem_cons] at hother
  simp only [readForm, hother, if_false, hop, if_true, hreg]

theorem readForm_B8 (c : Ctx) (p : Prefixes) (r : BitVec 3) (bs : List Byte) :
    readForm c p (0b10111#5 ++ r) bs =
      match opSize c p with
      | .o16 => readOI readU16 (.movR16Imm16 p r) bs
      | .o32 => readOI readU32 (.movR32Imm32 p r) bs
      | .o64 => readOI readU64 (.movR64Imm64 p r) bs := by
  obtain ⟨-, -, hother⟩ := opcodeReg_other r (.inr rfl)
  obtain ⟨hop, hreg⟩ := opcodeReg_fields 0b10111#5 r
  simp only [List.forall_mem_cons] at hother
  simp only [readForm, hother, if_false, hop, hreg]
  rfl

theorem readForm_C6 (c : Ctx) (p : Prefixes) (bs : List Byte) :
    readForm c p 0xC6#8 bs =
      if p.rexPresent then readMI 0xC6#8 (adSize c p) readU8 (.movRm8Imm8Rex p) bs
      else readMI 0xC6#8 (adSize c p) readU8 (.movRm8Imm8 p) bs := rfl

theorem readForm_C7 (c : Ctx) (p : Prefixes) (bs : List Byte) :
    readForm c p 0xC7#8 bs =
      match opSize c p with
      | .o16 => readMI 0xC7#8 (adSize c p) readU16 (.movRm16Imm16 p) bs
      | .o32 => readMI 0xC7#8 (adSize c p) readU32 (.movRm32Imm32 p) bs
      | .o64 => readMI 0xC7#8 (adSize c p) readU32 (.movRm64Imm32 p) bs := rfl

/-- The prefixes of an instruction that can be encoded can be too (R82, R102). -/
theorem Instr.prefixes_wf {c : Ctx} {i : Instr} (h : i.wf c = true) : i.prefixes.wf c = true := by
  cases i <;> simp only [Instr.wf, Bool.and_eq_true, and_assoc] at h <;> exact h.1

/-- The opcode byte of an instruction is none of the prefixes, and selects the row that reads its operands back (R101). -/
theorem readForm_body {c : Ctx} {i : Instr} (h : i.wf c = true) :
    ∃ op tl, i.body = op :: tl ∧ isLegacyPrefix op = false ∧ isRexByte op = false ∧
      ∀ rest, readForm c i.prefixes op (tl ++ rest) = .ok (i, rest) := by
  cases i with
  | movRm8R8 p reg rm | movRm8R8Rex p reg rm | movR8Rm8 p reg rm | movR8Rm8Rex p reg rm
  | movRm16R16 p reg rm | movRm32R32 p reg rm | movRm64R64 p reg rm
  | movR16Rm16 p reg rm | movR32Rm32 p reg rm | movR64Rm64 p reg rm
  | movRm64Sreg p reg rm | movSregRm64 p reg rm =>
    simp only [Instr.wf, Bool.and_eq_true, Bool.not_eq_true', beq_iff_eq] at h
    obtain ⟨⟨-, hrow⟩, hrm⟩ := h
    exact ⟨_, _, rfl, by decide, by decide, fun rest => by
      simp [readForm, Instr.prefixes, hrow, readMR_bytes _ reg rest hrm]⟩
  | movRm16Sreg p reg rm | movSregRm16 p reg rm =>
    simp only [Instr.wf, Bool.and_eq_true, bne_iff_ne] at h
    obtain ⟨⟨-, hrow⟩, hrm⟩ := h
    exact ⟨_, _, rfl, by decide, by decide, fun rest => by
      cases hsize : opSize c p <;> simp [readForm, Instr.prefixes, hsize, readMR_bytes _ reg rest hrm] at hrow ⊢⟩
  | movAlMoffs8 p m | movAlMoffs8RexW p m | movMoffs8Al p m | movMoffs8AlRexW p m
  | movAxMoffs16 p m | movEaxMoffs32 p m | movRaxMoffs64 p m
  | movMoffs16Ax p m | movMoffs32Eax p m | movMoffs64Rax p m =>
    simp only [Instr.wf, Bool.and_eq_true, Bool.not_eq_true', beq_iff_eq] at h
    obtain ⟨⟨-, hrow⟩, hm⟩ := h
    exact ⟨_, _, rfl, by decide, by decide, fun rest => by
      simp [readForm, Instr.prefixes, hrow, readFD_bytes _ rest hm]⟩
  | movR8Imm8 p r imm | movR8Imm8Rex p r imm =>
    simp only [Instr.wf, Bool.and_eq_true, Bool.not_eq_true'] at h
    obtain ⟨hlegacy, hrex, -⟩ := opcodeReg_other r (.inl rfl)
    exact ⟨_, _, rfl, hlegacy, hrex, fun rest => by
      simp [readForm_B0, Instr.prefixes, h.2, readOI_bytes _ (readU8_cons imm rest)]⟩
  | movR16Imm16 p r imm | movR32Imm32 p r imm | movR64Imm64 p r imm =>
    simp only [Instr.wf, Bool.and_eq_true, beq_iff_eq] at h
    obtain ⟨hlegacy, hrex, -⟩ := opcodeReg_other r (.inr rfl)
    refine ⟨_, _, rfl, hlegacy, hrex, fun rest => ?_⟩
    simp only [readForm_B8, Instr.prefixes, h.2]
    exact readOI_bytes _ (by simp only [readU16_bytes16, readU32_bytes32, readU64_bytes64])
  | movRm8Imm8 p rm imm | movRm8Imm8Rex p rm imm | movRm16Imm16 p rm imm | movRm32Imm32 p rm imm
  | movRm64Imm32 p rm imm =>
    simp only [Instr.wf, Bool.and_eq_true, Bool.not_eq_true', beq_iff_eq] at h
    obtain ⟨⟨-, hrow⟩, hrm⟩ := h
    refine ⟨_, _, rfl, by decide, by decide, fun rest => ?_⟩
    simp only [List.append_assoc, readForm_C6, readForm_C7, Instr.prefixes, hrow, Bool.false_eq_true, if_true, if_false]
    exact readMI_bytes _ hrm (by simp only [readU16_bytes16, readU32_bytes32, List.singleton_append, readU8_cons])

/-! ## The opcode map backwards: what an answer tells of the bytes (R86, R101) -/

section
variable {a : AdSize} {bs rest : List Byte} {i : Instr}

theorem readMR_bytes_eq {f : BitVec 3 → RM → Instr} (h : readMR a f bs = .ok (i, rest)) :
    ∃ reg rm, i = f reg rm ∧ rm.wf a = true ∧ bs = rm.bytes reg ++ rest := by
  obtain ⟨⟨reg, rm, r⟩, hmodrm, h⟩ := except_bind_eq_ok h
  cases h
  exact ⟨reg, rm, rfl, readModRM_eq_ok hmodrm⟩

theorem readFD_bytes_eq {f : Moffs → Instr} (h : readFD a f bs = .ok (i, rest)) :
    ∃ m, i = f m ∧ m.wf a = true ∧ bs = m.bytes ++ rest := by
  obtain ⟨⟨m, r⟩, hm, h⟩ := except_bind_eq_ok h
  cases h
  exact ⟨m, rfl, readMoffs_eq_ok hm⟩

theorem readOI_bytes_eq {n : Nat} {imm : List Byte → Except Reject (BitVec n × List Byte)} {f : BitVec n → Instr}
    (h : readOI imm f bs = .ok (i, rest)) : ∃ v, i = f v ∧ imm bs = .ok (v, rest) := by
  obtain ⟨⟨v, r⟩, hv, h⟩ := except_bind_eq_ok h
  cases h
  exact ⟨v, rfl, hv⟩

theorem readMI_bytes_eq {n : Nat} {op : Byte} {imm : List Byte → Except Reject (BitVec n × List Byte)}
    {f : RM → BitVec n → Instr} (h : readMI op a imm f bs = .ok (i, rest)) :
    ∃ rm v r, i = f rm v ∧ rm.wf a = true ∧ bs = rm.bytes 0 ++ r ∧ imm r = .ok (v, rest) := by
  obtain ⟨⟨reg, rm, r⟩, hmodrm, h⟩ := except_bind_eq_ok h
  obtain ⟨hwf, hbytes⟩ := readModRM_eq_ok hmodrm
  obtain ⟨rfl, h⟩ | ⟨-, h⟩ := ite_eq_iff.mp h
  · obtain ⟨⟨v, r'⟩, hv, h⟩ := except_bind_eq_ok h
    cases h
    exact ⟨rm, v, r, rfl, hwf, hbytes, hv⟩
  · cases h

end

/-- An opcode byte with the five high bits of `B0 + r` or `B8 + r` is one. -/
theorem opcodeReg_of_high (op : Byte) : op.extractLsb' 3 5 ++ op.extractLsb' 0 3 = op := by
  revert op
  decide

/-- What `readForm` answers: an instruction with these prefixes that the context can encode, whose body is the bytes
read (R86, R101). -/
theorem readForm_eq_ok {c : Ctx} {p : Prefixes} {op : Byte} {bs rest : List Byte} {i : Instr} (hp : p.wf c = true)
    (h : readForm c p op bs = .ok (i, rest)) : i.wf c = true ∧ i.prefixes = p ∧ op :: bs = i.body ++ rest := by
  unfold readForm at h
  -- In the order of the opcode map: 88 to 8E, A0 to A3, B0+, B8+, C6 and C7.
  iterate 6
    replace h := ite_eq_iff.mp h
    obtain ⟨rfl, h⟩ | ⟨-, h⟩ := h
    · split at h <;>
      · next hrow =>
        obtain ⟨reg, rm, rfl, hwf, rfl⟩ := readMR_bytes_eq h
        exact ⟨by simpa [Instr.wf, hp, hwf] using hrow, rfl, rfl⟩
  iterate 4
    replace h := ite_eq_iff.mp h
    obtain ⟨rfl, h⟩ | ⟨-, h⟩ := h
    · split at h <;>
      · next hrow =>
        obtain ⟨m, rfl, hwf, rfl⟩ := readFD_bytes_eq h
        exact ⟨by simpa [Instr.wf, hp, hwf] using hrow, rfl, rfl⟩
  replace h := ite_eq_iff.mp h
  obtain ⟨hop, h⟩ | ⟨-, h⟩ := h
  · split at h <;>
    · next hrow =>
      obtain ⟨v, rfl, hv⟩ := readOI_bytes_eq h
      exact ⟨by simp [Instr.wf, hp, hrow], rfl,
        by simp only [Instr.body, ← hop, opcodeReg_of_high, readU8_eq_ok hv, List.cons_append, List.nil_append]⟩
  replace h := ite_eq_iff.mp h
  obtain ⟨hop, h⟩ | ⟨-, h⟩ := h
  · have hbyte : op = 0b10111#5 ++ op.extractLsb' 0 3 := by rw [← hop, opcodeReg_of_high]
    split at h <;>
      obtain ⟨v, rfl, hv⟩ := readOI_bytes_eq h
    · exact ⟨by simp [Instr.wf, *], rfl, by rw [readU16_eq_ok hv, Instr.body, ← hbyte]; rfl⟩
    · exact ⟨by simp [Instr.wf, *], rfl, by rw [readU32_eq_ok hv, Instr.body, ← hbyte]; rfl⟩
    · exact ⟨by simp [Instr.wf, *], rfl, by rw [readU64_eq_ok hv, Instr.body, ← hbyte]; rfl⟩
  replace h := ite_eq_iff.mp h
  obtain ⟨rfl, h⟩ | ⟨-, h⟩ := h
  · split at h <;>
    · next hrow =>
      obtain ⟨rm, v, r, rfl, hwf, rfl, hv⟩ := readMI_bytes_eq h
      exact ⟨by simp [Instr.wf, hp, hrow, hwf], rfl, by simp [Instr.body, readU8_eq_ok hv]⟩
  replace h := ite_eq_iff.mp h
  obtain ⟨rfl, h⟩ | ⟨-, h⟩ := h
  · split at h <;>
      obtain ⟨rm, v, r, rfl, hwf, rfl, hv⟩ := readMI_bytes_eq h
    · exact ⟨by simp [Instr.wf, *], rfl, by simp [Instr.body, readU16_eq_ok hv]⟩
    · exact ⟨by simp [Instr.wf, *], rfl, by simp [Instr.body, readU32_eq_ok hv]⟩
    · exact ⟨by simp [Instr.wf, *], rfl, by simp [Instr.body, readU32_eq_ok hv]⟩
  cases h

/-! ## Prefixes backwards (R81 to R83) -/

/-- Everything `readLegacy` does with one byte when it answers: it stops, or it notes one more of the prefixes. -/
theorem readLegacy_cons_length {p : Prefixes} {b : Byte} {bs : List Byte} {r : Prefixes × List Byte}
    (h : readLegacy p (b :: bs) = .ok r) :
    r = (p, b :: bs) ∨ ∃ p', p'.bytes.length = p.bytes.length + 1 ∧ readLegacy p' bs = .ok r := by
  unfold readLegacy at h
  replace h := eq_ok_of_ite_error h
  iterate 3
    replace h := ite_eq_iff.mp h
    obtain ⟨-, h⟩ | ⟨-, h⟩ := h
    · replace h := ite_eq_iff.mp h
      obtain ⟨-, h⟩ | ⟨hnew, h⟩ := h
      · cases h
      · refine .inr ⟨_, ?_, h⟩
        simp +arith [Prefixes.bytes, hnew]
  split at h
  · next k _ =>
    replace h := ite_eq_iff.mp h
    obtain ⟨-, h⟩ | ⟨hnew, h⟩ := h
    · cases h
    · refine .inr ⟨_, ?_, h⟩
      simp only [Bool.not_eq_true, Option.isSome_eq_false_iff, Option.isNone_iff_eq_none] at hnew
      simp +arith [Prefixes.bytes, hnew]
  · cases h
    exact .inl rfl

/-- The legacy prefixes that are read are as many bytes as the encoder writes for them, in any order. -/
theorem readLegacy_length {p q : Prefixes} {bs r : List Byte} (h : readLegacy p bs = .ok (q, r)) :
    ∃ pre, bs = pre ++ r ∧ pre.length + p.bytes.length = q.bytes.length := by
  induction bs generalizing p with
  | nil => cases h
  | cons b bs ih =>
    obtain heq | ⟨p', hp', h'⟩ := readLegacy_cons_length h
    · cases heq
      exact ⟨[], rfl, Nat.zero_add _⟩
    · obtain ⟨pre, rfl, hlen⟩ := ih h'
      exact ⟨b :: pre, rfl, by simp only [List.length_cons]; omega⟩

/-- Everything `readRex` does when it answers: no byte, or a REX byte in `Long64` (R82). -/
theorem readRex_eq_ok {m : Mode} {p q : Prefixes} {bs r : List Byte} (h : readRex m p bs = .ok (q, r)) :
    (q = p ∧ bs = r) ∨ (m = .long64 ∧ ∃ b, q = { p with rex := some (rexOfByte b) } ∧ bs = b :: r) := by
  cases bs with
  | nil => cases h
  | cons b bs =>
    replace h := ite_eq_iff.mp h
    obtain ⟨⟨hm, -⟩, h⟩ | ⟨-, h⟩ := h
    · cases bs with
      | nil => cases h
      | cons op bs =>
        replace h := eq_ok_of_ite_error h
        cases h
        exact .inr ⟨hm, b, rfl, rfl⟩
    · cases h
      exact .inl ⟨rfl, rfl⟩

/-- The prefixes that are read can be encoded in the mode, and are as many bytes as the encoder writes for them. -/
theorem readPrefixes_length {c : Ctx} {p q : Prefixes} {bs r r' : List Byte} (hlegacy : readLegacy .empty bs = .ok (p, r))
    (hrex : readRex c.mode p r = .ok (q, r')) : q.wf c = true ∧ ∃ pre, bs = pre ++ r' ∧ pre.length = q.bytes.length := by
  obtain ⟨pre, rfl, hlen⟩ := readLegacy_length hlegacy
  have hnone : p.rex = none := readLegacy_rex hlegacy
  replace hlen : pre.length = p.bytes.length := hlen
  obtain ⟨rfl, rfl⟩ | ⟨hm, b, rfl, rfl⟩ := readRex_eq_ok hrex
  · exact ⟨by simp [Prefixes.wf, hnone], pre, rfl, hlen⟩
  · refine ⟨by simp [Prefixes.wf, hm], pre ++ [b], by simp, ?_⟩
    rw [Prefixes.bytes_of_rex rfl]
    simp [hlen, ← hnone]

/-! ## The statements -/

/-- What `decode` answers: an instruction that the context can encode, read from as many bytes of prefixes as it has and from its
own body (R80). -/
theorem decode_eq_ok_bytes {c : Ctx} {bs rest : List Byte} {i : Instr} (h : decode c bs = .ok (i, rest)) :
    i.wf c = true ∧ ∃ pre, bs = pre ++ (i.body ++ rest) ∧ pre.length = i.prefixes.bytes.length := by
  obtain ⟨⟨p, r⟩, hlegacy, h⟩ := except_bind_eq_ok h
  obtain ⟨⟨q, r'⟩, hrex, h⟩ := except_bind_eq_ok h
  obtain ⟨⟨op, bs'⟩, hop, hform⟩ := except_bind_eq_ok h
  obtain ⟨hq, pre, rfl, hlen⟩ := readPrefixes_length hlegacy hrex
  obtain ⟨hwf, rfl, hbody⟩ := readForm_eq_ok hq hform
  exact ⟨hwf, pre, by rw [readU8_eq_ok hop, hbody], hlen⟩

/-- Settles O1: the prefixes are read back, and the opcode byte after them selects the row that reads the operands back. -/
theorem decodeEncodeRoundTrip : Obligations.DecodeEncodeRoundTrip := by
  unfold Obligations.DecodeEncodeRoundTrip
  intro c i rest hwf
  obtain ⟨op, tl, hbody, hlegacy, hrex, hform⟩ := readForm_body hwf
  rw [encode, hbody, List.append_assoc, List.cons_append,
    decode_prefixes _ (Instr.prefixes_wf hwf) hlegacy fun _ => hrex, hform]

theorem opSize_long64 {c : Ctx} (p : Prefixes) (hm : c.mode = .long64) :
    opSize c p = if p.w then .o64 else if p.opsz then .o16 else .o32 := by
  simp only [opSize, hm]

theorem opSize_of_ne_long64 {c : Ctx} (p : Prefixes) (hm : c.mode ≠ .long64) :
    opSize c p = if c.csD == p.opsz then .o16 else .o32 := by
  cases h : c.mode <;> simp_all [opSize]

theorem adSize_long64 {c : Ctx} (p : Prefixes) (hm : c.mode = .long64) :
    adSize c p = if p.adsz then .a32 else .a64 := by
  simp only [adSize, hm]

theorem adSize_of_ne_long64 {c : Ctx} (p : Prefixes) (hm : c.mode ≠ .long64) :
    adSize c p = if c.csD == p.adsz then .a16 else .a32 := by
  cases h : c.mode <;> simp_all [adSize]

/-- Settles O2: the bytes read are the prefixes and the body of the answer, and the sizes are those of R84 and R85. -/
theorem decodedIsWellFormed : Obligations.DecodedIsWellFormed := by
  unfold Obligations.DecodedIsWellFormed
  refine ⟨fun c bs rest i h => ?read, fun c p hm => ⟨fun x hx hw => ?o64, fun hw => ?o32, adSize_long64 p hm⟩,
    fun c p d hm hd => ?sizes⟩
  case read =>
    obtain ⟨hwf, pre, rfl, hlen⟩ := decode_eq_ok_bytes h
    have hi : i.length = (pre ++ i.body).length := by simp [Instr.length, encode, hlen]
    rw [← List.append_assoc, List.length_append, hi]
    exact ⟨hwf, rfl, List.drop_left⟩
  case o64 => simp [opSize_long64 p hm, Prefixes.w, hx, hw]
  case o32 =>
    have hpw : p.w = false := by
      cases hx : p.rex with
      | none => simp [Prefixes.w, hx]
      | some x => simp [Prefixes.w, hx, hw x hx]
    simp [opSize_long64 p hm, hpw]
  case sizes =>
    rw [opSize_of_ne_long64 p hm, adSize_of_ne_long64 p hm]
    subst hd
    cases c.csD <;> cases p.opsz <;> cases p.adsz <;> decide

/-- Settles O4: the first byte of ModRM holds the `reg` field, which must be 000. -/
theorem groupOpcodesOtherThanZeroRefused : Obligations.GroupOpcodesOtherThanZeroRefused := by
  unfold Obligations.GroupOpcodesOtherThanZeroRefused
  intro c p op md reg rm bs ⟨i, rest⟩ hop hreg hp h
  have hother : isLegacyPrefix op = false ∧ isRexByte op = false := by
    obtain rfl | rfl := hop <;> decide
  rw [decode_prefixes _ hp hother.1 fun _ => hother.2] at h
  have hmodrm : ∃ rm' r, readModRM (adSize c p) (byte233 md reg rm :: bs) = .ok (0#3, rm', r) := by
    obtain rfl | rfl := hop
    · rw [readForm_C6] at h
      split at h <;>
      · obtain ⟨rm', v, r, hread, -⟩ := readMI_eq_ok h
        exact ⟨rm', r, hread⟩
    · rw [readForm_C7] at h
      split at h <;>
      · obtain ⟨rm', v, r, hread, -⟩ := readMI_eq_ok h
        exact ⟨rm', r, hread⟩
  obtain ⟨rm', r, hread⟩ := hmodrm
  obtain ⟨-, hbytes⟩ := readModRM_eq_ok hread
  obtain ⟨md', lo, tl, hhead⟩ := rm'.bytes_head 0#3
  rw [hhead, List.cons_append, List.cons.injEq] at hbytes
  have hfields := congrArg fields233 hbytes.1
  rw [fields233_byte233, fields233_byte233, Prod.mk.injEq, Prod.mk.injEq] at hfields
  exact hreg hfields.2.1

/-- Settles O6. -/
theorem writtenWordsDecode : Obligations.WrittenWordsDecode := by
  unfold Obligations.WrittenWordsDecode
  decide

end Sys2Proof

namespace Sys2Proof.Machine

/-- An opcode byte outside the table selects no row (R101, R105). -/
theorem readForm_other {c : Ctx} {p : Prefixes} {op : Byte} {bs : List Byte}
    (hop : op ∉ [0x88#8, 0x89#8, 0x8A#8, 0x8B#8, 0x8C#8, 0x8E#8, 0xA0#8, 0xA1#8, 0xA2#8, 0xA3#8, 0xC6#8, 0xC7#8])
    (hrange : op < 0xB0#8 ∨ 0xBF#8 < op) : readForm c p op bs = .error (.notMov op) := by
  have hB0 : op.extractLsb' 3 5 ≠ 0b10110#5 ∧ op.extractLsb' 3 5 ≠ 0b10111#5 := by
    revert op
    decide
  simp only [List.mem_cons, List.not_mem_nil, or_false, not_or] at hop
  simp only [readForm, hop, hB0, if_false]

/-- Bytes that run out refuse the step because of the byte that is not there (R25, D16, D22). -/
theorem step_of_truncated {s : State} (h : decode s.ctx (fetchBytes s) = .error .truncated) :
    step s = .refused (fetchStop s) := step_of_error h

/-- With `pc` outside the program no byte is fetched (D16). -/
theorem fetchBytes_outside {s : State} {a : Nat} (ha : fetchPhys s 0 = some a) (hp : inRegions s.program a = false) :
    fetchBytes s = [] := by
  have hnone : fetchAddr s 0 = none := by simp [fetchAddr, ha, Option.filter_some, hp]
  simp only [fetchBytes, maxFetch, fetchFrom, hnone]

theorem fetchStop_outside {s : State} {a : Nat} (ha : fetchPhys s (fetchBytes s).length = some a) :
    fetchStop s = .outsideProgram := by
  simp [fetchStop, ha]

/-- Settles O8: a decoding error is a refusal that names its reason, or what stopped the fetch. -/
theorem otherOpcodesRefused : Obligations.OtherOpcodesRefused := by
  unfold Obligations.OtherOpcodesRefused
  refine ⟨fun s why h => ⟨fun hwhy => ?named, ?truncated⟩, fun s a ha hp => ?outside,
    fun s p op bs hp hbytes hlegacy hrex hop hrange => ?notMov⟩
  case named =>
    rw [step_of_error h]
    cases why with
    | truncated => exact absurd rfl hwhy
    | _ => rfl
  case truncated =>
    rintro rfl
    rw [step_of_truncated h]
    exact ⟨fun a ha => by rw [fetchStop_outside ha], fun hnone => by simp [fetchStop, hnone]⟩
  case outside =>
    have hnil := fetchBytes_outside ha hp
    have herror : decode s.ctx (fetchBytes s) = .error .truncated := by rw [hnil]; rfl
    rw [step_of_truncated herror, fetchStop_outside (by rw [hnil]; exact ha)]
  case notMov =>
    have herror : decode s.ctx (fetchBytes s) = .error (.notMov op) := by
      rw [hbytes, decode_prefixes bs hp hlegacy hrex, readForm_other hop hrange]
    exact step_of_error herror

end Sys2Proof.Machine

/-! PROOF. What every step keeps (O54, O57, O58): first the ways in which an instruction changes the state before it completes,
then the program counter, memory and the segment registers through each of them. -/

namespace Sys2Proof.Machine

/-! ## What an instruction changes before it completes -/

/-- The ways in which the 34 forms change the state before completion: a register, memory outside the program, or a segment
register (R23, R70, R148). -/
inductive MoveEffect (s : State) : State → Prop where
  | register (n : BitVec 4) (w : Width) (rex : Bool) (v : Word) : MoveEffect s (regWrite s n w rex v)
  | registerAfterDraw (n : BitVec 4) (w : Width) (rex : Bool) (v : Word) : MoveEffect s (regWrite s.draw.2 n w rex v)
  | store (as : List Nat) (v : Word) (hp : as.any (inRegions s.program) = false) :
      MoveEffect s { s with mem := s.mem.writeAll as v }
  | load (k : SReg) (sel : BitVec 16) (u : State) (hk : k ≠ .cs) (h : loadSeg s k sel = .next u) : MoveEffect s u

theorem MoveEffect.of_segWrite {s u : State} {k : SReg} {off : Word} {n : Nat} {v : Word}
    (h : segWrite s k off n v = .next u) : MoveEffect s u := by
  obtain ⟨as, -, hp, rfl⟩ := segWrite_eq_next h
  exact .store as v hp

theorem MoveEffect.of_writeRM {s u : State} {p : Prefixes} {len : Nat} {w : Width} {v : Word} {rm : RM}
    (h : writeRM s p len w v rm = .next u) : MoveEffect s u := by
  cases rm with
  | reg n =>
    cases h
    exact .register _ w _ v
  | mem m => exact .of_segWrite h

theorem MoveEffect.of_writeSelReg (s : State) (p : Prefixes) (o : OpSize) (rm : BitVec 3) (sel : BitVec 16) :
    MoveEffect s (writeSelReg s p o rm sel) := by
  obtain ⟨w, v, -, h | h⟩ := writeSelReg_cases s p o rm sel
  · exact h ▸ .register _ w _ v
  · exact h ▸ .registerAfterDraw _ w _ v

/-- Everything a shared move can do when it answers: one effect, then completion, which may use a free value (R158). -/
theorem SharedMove.eq_next {i : Instr} {s t : State} {r : Res State} (hm : SharedMove i s r) (h : r = .next t) :
    ∃ u, MoveEffect s u ∧ ∃ b, t = complete u i.length b ∨ t = complete u.draw.2 i.length b := by
  cases hm with
  | toRM w rm v =>
    obtain ⟨u, hu, ht⟩ := moveToRM_eq_next h
    exact ⟨u, .of_writeRM hu, _, .inl ht⟩
  | fromRM w reg rm =>
    obtain ⟨v, -, ht⟩ := moveFromRM_eq_next h
    exact ⟨_, .register _ _ _ v, _, .inl ht⟩
  | fromMoffs w m =>
    obtain ⟨v, -, ht⟩ := moveFromMoffs_eq_next h
    exact ⟨_, .register _ _ _ v, _, .inl ht⟩
  | toMoffs w m =>
    obtain ⟨u, hu, ht⟩ := moveToMoffs_eq_next h
    exact ⟨u, .of_segWrite hu, _, .inl ht⟩
  | toOpReg w r v => exact ⟨_, .register _ _ _ v, _, .inl (moveToOpReg_eq_next h)⟩
  | fromSreg o reg rm =>
    obtain ⟨-, -, k, -, ⟨n, -, ht⟩ | ⟨m, u, -, hu, ht⟩⟩ := moveFromSreg_eq_next h
    · exact ⟨_, .of_writeSelReg _ _ _ _ _, _, .inl ht⟩
    · exact ⟨u, .of_segWrite hu, _, .inl ht⟩
  | toSreg o reg rm =>
    obtain ⟨-, -, k, sel, u, -, hk, -, hu, rfl⟩ := moveToSreg_eq_next h
    exact ⟨u, .load k sel u hk hu, completeLoad_cases _ k u _⟩

/-! ## Through each effect -/

theorem MoveEffect.systemAndCsKept {s u : State} (h : MoveEffect s u) : SystemAndCsKept s u := by
  have hs := SystemAndCsKept.refl s
  cases h with
  | register n w rex v => exact hs.after_regWrite n w rex v
  | registerAfterDraw n w rex v => exact hs.after_draw.after_regWrite n w rex v
  | store as v hp => exact hs.after_withMem _
  | load k sel u hk h => exact hs.after_loadSeg hk h

@[simp] theorem regWrite_rip (s : State) (n : BitVec 4) (w : Width) (rex : Bool) (v : Word) :
    (regWrite s n w rex v).rip = s.rip := by
  obtain ⟨i, x, h⟩ | ⟨x, h⟩ := regWrite_cases s n w rex v <;> simp [h]

@[simp] theorem regWrite_mem (s : State) (n : BitVec 4) (w : Width) (rex : Bool) (v : Word) :
    (regWrite s n w rex v).mem = s.mem := by
  obtain ⟨i, x, h⟩ | ⟨x, h⟩ := regWrite_cases s n w rex v <;> simp [h]

@[simp] theorem regWrite_seg (s : State) (n : BitVec 4) (w : Width) (rex : Bool) (v : Word) :
    (regWrite s n w rex v).seg = s.seg := by
  obtain ⟨i, x, h⟩ | ⟨x, h⟩ := regWrite_cases s n w rex v <;> simp [h]

@[simp] theorem loadNull_rip (s : State) (k : SReg) (sel : BitVec 16) : (loadNull s k sel).rip = s.rip := by
  unfold loadNull
  split <;> simp

@[simp] theorem loadNull_mem (s : State) (k : SReg) (sel : BitVec 16) : (loadNull s k sel).mem = s.mem := by
  unfold loadNull
  split <;> simp

/-- What a load of a segment register leaves of `pc` and of memory: only the accessed bit is written (R63, R155). -/
theorem loadSeg_rip_mem {s t : State} {k : SReg} {sel : BitVec 16} (h : loadSeg s k sel = .next t) :
    t.rip = s.rip ∧ (t.mem = s.mem ∨ ∃ as v, as.any (inRegions s.program) = false ∧ t.mem = s.mem.writeAll as v) := by
  obtain ⟨-, rfl⟩ | ⟨-, rfl⟩ | ⟨-, -, -, -, rfl⟩ | ⟨-, -, -, d, u, -, -, ha, rfl⟩ := loadSeg_cases h
  · exact ⟨setSreg_rip .., .inl (setSreg_mem ..)⟩
  · exact ⟨setSreg_rip .., .inl (setSreg_mem ..)⟩
  · exact ⟨loadNull_rip s k sel, .inl (loadNull_mem s k sel)⟩
  · obtain rfl | ⟨as, v, -, hp, rfl⟩ := setAccessedBit_eq_next ha
    · exact ⟨setSreg_rip .., .inl (setSreg_mem ..)⟩
    · exact ⟨setSreg_rip .., .inr ⟨as, v, hp, setSreg_mem ..⟩⟩

theorem MoveEffect.rip_eq {s u : State} (h : MoveEffect s u) : u.rip = s.rip := by
  cases h with
  | register n w rex v => exact regWrite_rip s n w rex v
  | registerAfterDraw n w rex v => exact regWrite_rip s.draw.2 n w rex v
  | store as v hp => rfl
  | load k sel u hk h => exact (loadSeg_rip_mem h).1

/-- Memory is as it was, or bytes outside the program were written (R70). -/
theorem MoveEffect.mem_eq {s u : State} (h : MoveEffect s u) :
    u.mem = s.mem ∨ ∃ as v, as.any (inRegions s.program) = false ∧ u.mem = s.mem.writeAll as v := by
  cases h with
  | register n w rex v => exact .inl (regWrite_mem s n w rex v)
  | registerAfterDraw n w rex v => exact .inl (regWrite_mem s.draw.2 n w rex v)
  | store as v hp => exact .inr ⟨as, v, hp, rfl⟩
  | load k sel u hk h => exact (loadSeg_rip_mem h).2

/-- The segment registers are as they were, or one but CS was loaded. -/
theorem MoveEffect.seg_eq {s u : State} (h : MoveEffect s u) :
    u.seg = s.seg ∨ ∃ k sel, k ≠ .cs ∧ loadSeg s k sel = .next u := by
  cases h with
  | register n w rex v => exact .inl (regWrite_seg s n w rex v)
  | registerAfterDraw n w rex v => exact .inl (regWrite_seg s.draw.2 n w rex v)
  | store as v hp => exact .inl rfl
  | load k sel u hk h => exact .inr ⟨k, sel, hk, h⟩

/-- Everything an instruction can do to `pc`, memory and the segment registers when it answers. -/
theorem exec_eq_next_effect {i : Instr} {s t : State} (h : exec i s = .next t) :
    ∃ u, MoveEffect s u ∧ t.rip = nextPc s i.length ∧ t.mem = u.mem ∧ t.seg = u.seg := by
  obtain ⟨u, hu, b, rfl | rfl⟩ := (exec_sharedMove i s).eq_next h <;>
  · have hpc : nextPc u i.length = nextPc s i.length := by
      simp only [nextPc, hu.rip_eq, hu.systemAndCsKept.mode_eq]
    exact ⟨u, hu, hpc, rfl, rfl⟩

/-! ## The program counter (R25) -/

/-- `nextPc` is the sum of R25 in every mode. -/
theorem pcAdvanced_of_rip {i : Instr} {s t : State} (h : t.rip = nextPc s i.length) : PcAdvanced i s t :=
  ⟨fun hm => by rw [h, nextPc, hm], fun hm => by rw [h, nextPc_toNat _ hm]⟩

/-- Settles O58: `pc` is untouched until the completion. -/
theorem pcAdvancesByTheLength : Obligations.PcAdvancesByTheLength := by
  unfold Obligations.PcAdvancesByTheLength
  intro i s t h
  obtain ⟨u, -, hrip, -, -⟩ := exec_eq_next_effect h
  exact pcAdvanced_of_rip hrip

/-! ## The program (R70) -/

/-- Settles O57: what is written lies outside the program, whose extent no step changes. -/
theorem stepKeepsTheProgram : Obligations.StepKeepsTheProgram := by
  unfold Obligations.StepKeepsTheProgram
  intro s t h
  have hprogram : t.program = s.program := by
    obtain ⟨-, -, -, -, -, -, -, -, hprogram, -⟩ := (step_systemAndCsKept h).system
    exact hprogram
  have hkept : ∀ a, inRegions s.program a = true → t.mem.read a = s.mem.read a := by
    intro a ha
    obtain ⟨i, -, -, hexec⟩ := step_eq_next h
    obtain ⟨u, hu, -, hmem, -⟩ := exec_eq_next_effect hexec
    rw [hmem]
    obtain hu | ⟨as, v, hp, hu⟩ := hu.mem_eq
    · rw [hu]
    · have hout : a ∉ as := fun hin => by simp [List.any_eq_false.mp hp a hin] at ha
      rw [hu, Memory.read_writeAll_other v hout]
  refine ⟨hkept, fun j a ha => ?_⟩
  have hin := (fetchAddr_eq_some ha).2
  rw [hprogram] at hin
  exact ⟨hin, hkept a hin⟩

/-! ## The invariant -/

/-- The attributes of a loaded descriptor have its type but for the accessed bit (R155). -/
theorem descAttr_type_bits (d : Word) :
    (descAttr d).type.getLsbD 1 = d.getLsbD 41 ∧ (descAttr d).type.getLsbD 2 = d.getLsbD 42 ∧
      (descAttr d).type.getLsbD 3 = d.getLsbD 43 := by
  simp [descAttr, descType]

theorem sreg_loadNull_other (s : State) {j k : SReg} (sel : BitVec 16) (hj : j ≠ k) :
    (loadNull s k sel).sreg j = s.sreg j := by
  unfold loadNull
  split <;> simp [sreg_setSreg_other _ _ hj]

theorem sreg_loadNull_same (s : State) (k : SReg) (sel : BitVec 16) :
    ((loadNull s k sel).sreg k).sel = sel ∧ ((loadNull s k sel).sreg k).usable = false := by
  unfold loadNull
  split <;> simp

/-- A load of a segment register leaves the other five alone (R149, R150, R155). -/
theorem loadSeg_sreg_other {s t : State} {j k : SReg} {sel : BitVec 16} (h : loadSeg s k sel = .next t) (hj : j ≠ k) :
    t.sreg j = s.sreg j := by
  obtain ⟨-, rfl⟩ | ⟨-, rfl⟩ | ⟨-, -, -, -, rfl⟩ | ⟨-, -, -, d, u, -, -, ha, rfl⟩ := loadSeg_cases h
  · exact sreg_setSreg_other s _ hj
  · exact sreg_setSreg_other s.draw.2 _ hj
  · exact sreg_loadNull_other s sel hj
  · obtain rfl | ⟨as, v, -, -, rfl⟩ := setAccessedBit_eq_next ha
    · exact sreg_setSreg_other _ _ hj
    · exact sreg_setSreg_other { s with mem := s.mem.writeAll as v } _ hj

theorem descAttr_writable (d : Word) : (descAttr d).writable = (!d.getLsbD 43 && d.getLsbD 41) := by
  obtain ⟨h41, -, h43⟩ := descAttr_type_bits d
  simp only [SegAttr.writable, SegAttr.isCode, h41, h43]

theorem descAttr_executeOnly (d : Word) : (descAttr d).executeOnly = (d.getLsbD 43 && !d.getLsbD 41) := by
  obtain ⟨h41, -, h43⟩ := descAttr_type_bits d
  simp only [SegAttr.executeOnly, SegAttr.isCode, h41, h43]

/-- What a usable segment register may hold where loads are checked: SS a writable data segment, the others data or
readable code (R53). -/
def SegReg.FitFor (k : SReg) (r : SegReg) : Prop :=
  (k = .ss → r.attr.writable = true) ∧ (k ≠ .ss → r.attr.executeOnly = false)

/-- A descriptor that passes its checks fits the register (R152, R153). -/
theorem fitFor_of_descFault {s : State} {k : SReg} {sel : BitVec 16} {d : Word} {r : SegReg}
    (h : descFault s k sel d = none) (hr : r.attr = descAttr d) : r.FitFor k := by
  constructor
  · rintro rfl
    rw [descFault_ss, Option.or_eq_none_iff, ssLoadFault_eq] at h
    rw [hr, descAttr_writable]
    grind
  · intro hk
    rw [descFault_of_ne_ss hk, Option.or_eq_none_iff, dataLoadFault_eq] at h
    rw [hr, descAttr_executeOnly]
    grind

/-- A register that a checked load leaves usable fits (R150 to R155). -/
theorem loadSeg_fitFor {s t : State} {k : SReg} {sel : BitVec 16} (hm : checkedMode s.mode) (h : loadSeg s k sel = .next t)
    (hu : (t.sreg k).usable = true) : (t.sreg k).FitFor k := by
  obtain ⟨hreal, -⟩ | ⟨hv86, -⟩ | ⟨-, -, -, -, rfl⟩ | ⟨-, -, -, d, u, -, hd, -, rfl⟩ := loadSeg_cases h
  · simp [checkedMode, hreal] at hm
  · simp [checkedMode, hv86] at hm
  · rw [(sreg_loadNull_same s k sel).2] at hu
    cases hu
  · exact fitFor_of_descFault hd (by rw [loadFromDesc, sreg_setSreg_same])

/-- Where loads are checked, every usable segment register but CS fits. -/
def State.SregsFit (s : State) : Prop :=
  checkedMode s.mode → ∀ k, k ≠ .cs → (s.sreg k).usable = true → (s.sreg k).FitFor k

/-- The invariant, its last clause said of each register. -/
theorem inv_iff (s : State) :
    s.Inv ↔ s.mem.wf = true ∧ (s.mode ≠ .long64 → s.rip.toNat < 2 ^ 32) ∧ (s.mode = .v86 → s.cpl = 3#2) ∧
      s.seg.cs.usable = true ∧ s.SregsFit := by
  have hlast : (checkedMode s.mode →
      (s.seg.ss.usable = true → s.seg.ss.attr.writable = true) ∧
      ∀ k, k ≠ .ss → k ≠ .cs → (s.sreg k).usable = true → (s.sreg k).attr.executeOnly = false) ↔ s.SregsFit := by
    refine forall_congr' fun _ => ⟨fun ⟨hss, hother⟩ k hcs hu => ⟨?_, fun hk => hother k hk hcs hu⟩,
      fun h => ⟨fun hu => (h .ss (by decide) hu).1 rfl, fun k hss hcs hu => (h k hcs hu).2 hss⟩⟩
    rintro rfl
    exact hss hu
  rw [State.Inv, hlast]

theorem sregsFit_of_exec {i : Instr} {s t : State} (h : exec i s = .next t) (hs : s.SregsFit) : t.SregsFit := by
  intro hm k hcs hu
  rw [(exec_systemAndCsKept h).mode_eq] at hm
  obtain ⟨u, heff, -, -, hseg⟩ := exec_eq_next_effect h
  have hsreg : ∀ j, t.sreg j = u.sreg j := fun j => by cases j <;> simp only [State.sreg, hseg]
  rw [hsreg] at hu ⊢
  obtain hsame | ⟨k', sel, -, hload⟩ := heff.seg_eq
  · have hkept : u.sreg k = s.sreg k := by cases k <;> simp only [State.sreg, hsame]
    rw [hkept] at hu ⊢
    exact hs hm k hcs hu
  · by_cases hk : k = k'
    · subst hk
      exact loadSeg_fitFor hm hload hu
    · rw [loadSeg_sreg_other hload hk] at hu ⊢
      exact hs hm k hcs hu

/-- A load without checks puts sixteen times the selector in the base (R149). -/
theorem loadSeg_normalBase {s t : State} {k : SReg} {sel : BitVec 16} (hm : s.mode = .real ∨ s.mode = .v86)
    (h : loadSeg s k sel = .next t) : (t.sreg k).base.toNat = (t.sreg k).sel.toNat * 16 := by
  obtain hm | hm := hm
  · rw [loadSeg_real k sel hm] at h
    cases h
    rw [loadReal, sreg_setSreg_same]
    exact selector_shiftLeft_toNat sel
  · rw [loadSeg_v86 k sel hm] at h
    cases h
    rw [loadV86, sreg_setSreg_same]
    exact selector_shiftLeft_toNat sel

theorem normalBases_of_exec {i : Instr} {s t : State} (h : exec i s = .next t) (hs : s.NormalBases) : t.NormalBases := by
  intro hm k
  rw [(exec_systemAndCsKept h).mode_eq] at hm
  obtain ⟨u, heff, -, -, hseg⟩ := exec_eq_next_effect h
  have hsreg : t.sreg k = u.sreg k := by cases k <;> simp only [State.sreg, hseg]
  rw [hsreg]
  obtain hsame | ⟨k', sel, -, hload⟩ := heff.seg_eq
  · have hkept : u.sreg k = s.sreg k := by cases k <;> simp only [State.sreg, hsame]
    rw [hkept]
    exact hs hm k
  · by_cases hk : k = k'
    · subst hk
      exact loadSeg_normalBase hm hload
    · rw [loadSeg_sreg_other hload hk]
      exact hs hm k

theorem mem_wf_of_exec {i : Instr} {s t : State} (h : exec i s = .next t) (hs : s.mem.wf = true) : t.mem.wf = true := by
  obtain ⟨u, heff, -, hmem, -⟩ := exec_eq_next_effect h
  rw [hmem]
  obtain hu | ⟨as, v, -, hu⟩ := heff.mem_eq
  · rwa [hu]
  · rw [hu]
    exact Memory.writeAll_wf as v hs

/-- Settles O54: memory, `pc` and the segment registers keep their conditions through every effect; the rest is not
written. -/
theorem stepKeepsTheInvariant : Obligations.StepKeepsTheInvariant := by
  unfold Obligations.StepKeepsTheInvariant
  intro s t h
  obtain ⟨i, -, -, hexec⟩ := step_eq_next h
  refine ⟨fun hs => ?_, normalBases_of_exec hexec⟩
  have hkept := exec_systemAndCsKept hexec
  obtain ⟨hwf, -, hcpl, hcs, hfit⟩ := (inv_iff s).mp hs
  obtain ⟨-, -, -, -, -, hcplKept, -⟩ := hkept.system
  refine (inv_iff t).mpr ⟨mem_wf_of_exec hexec hwf, fun hm => ?_, fun hm => ?_, ?_, sregsFit_of_exec hexec hfit⟩
  · rw [hkept.mode_eq] at hm
    rw [(pcAdvancesByTheLength i s t hexec).2 hm]
    exact Nat.mod_lt _ (by decide)
  · rw [hcplKept]
    exact hcpl (hkept.mode_eq ▸ hm)
  · rw [hkept.cs]
    exact hcs

/-- Settles O55: the machine after reset is in `Real` with an empty memory. -/
theorem resetHasTheInvariant : Obligations.ResetHasTheInvariant := by
  unfold Obligations.ResetHasTheInvariant
  have hm : State.reset.mode = .real := rfl
  refine ⟨rfl, fun _ => by decide, fun hv86 => ?_, rfl, fun hchecked => ?_⟩
  · cases hm.symm.trans hv86
  · simp [checkedMode, hm] at hchecked

/-- Settles O60, row by row of the table of R43. -/
theorem resetState : Obligations.ResetState := by
  unfold Obligations.ResetState
  have hm : State.reset.mode = .real := rfl
  have hsregs : ∀ k, k ≠ .cs → State.reset.sreg k = SegReg.reset := by
    intro k hk
    cases k with
    | cs => exact absurd rfl hk
    | _ => rfl
  have hlinear : linearAddr State.reset .cs State.reset.rip = 0xFFFFFFF0#64 := by decide
  have hstart : State.reset.Startable :=
    ⟨fun _ => rfl, fun hv86 => (by cases hm.symm.trans hv86), rfl, fun hlong => (by cases hm.symm.trans hlong), rfl⟩
  refine ⟨hm, rfl, rfl, rfl, rfl, rfl, rfl, rfl, hlinear, fun k hk => ?_, fun i => ?_, rfl, rfl, rfl, hstart,
    fun k hk => ?_⟩
  · rw [hsregs k hk]
    rfl
  · simp [State.reset, State.getX]
  · rw [hsregs k hk]
    rfl

end Sys2Proof.Machine

/-! PROOF. The register forms of 40_mov_reg_rm.md and 43_mov_imm.md (O9 to O16, O53), and 8C to a register (O35): the
register that a write touches and what it then holds, the moves without LOCK as equations, then the statements. -/

namespace Sys2Proof.Machine

/-! ## The frame of a register write (R23, R44) -/

/-- The register that a write of a register number touches (R22, R23). -/
def writtenReg (n : BitVec 4) (w : Width) (rex : Bool) : BitVec 4 :=
  match w with
  | .w8 =>
    match byteLoc n rex with
    | .low i => i
    | .high i => i
  | _ => n

theorem writtenReg_of_ne_w8 {n : BitVec 4} {w : Width} {rex : Bool} (hw : w ≠ .w8) : writtenReg n w rex = n := by
  cases w with
  | w8 => exact absurd rfl hw
  | _ => rfl

theorem getX_regWrite_other {s : State} {n j : BitVec 4} {w : Width} {rex : Bool} (v : Word)
    (hj : j ≠ writtenReg n w rex) : (regWrite s n w rex v).getX j = s.getX j := by
  cases w with
  | w8 =>
    simp only [regWrite]
    simp only [writtenReg] at hj
    split <;> next hloc => rw [hloc] at hj; exact getX_setX_other s _ hj
  | w16 => exact getX_setX_other s _ hj
  | w32 =>
    simp only [regWrite]
    split
    · exact getX_setX_other s _ hj
    · exact getX_setX_other s.draw.2 _ hj
  | w64 => exact getX_setX_other s _ hj

/-- A state that differs from `s` at most in the register `d` and in the free values used, completed. -/
theorem registerMove_complete {i : Instr} {d : BitVec 4} {s u : State} (hregs : RegsKeptBut d s u) (hseg : u.seg = s.seg)
    (hmem : u.mem = s.mem) (hrip : u.rip = s.rip) (hkept : SystemAndCsKept s u) :
    RegisterMove i d s (complete u i.length false) := by
  have hpc : nextPc u i.length = nextPc s i.length := by simp only [nextPc, hrip, hkept.mode_eq]
  exact ⟨hregs, hseg, fun a => by rw [complete_mem, hmem], (hkept.after_complete _ _).system,
    pcAdvanced_of_rip hpc, rfl⟩

theorem registerMove_regWrite (i : Instr) (s : State) (n : BitVec 4) (w : Width) (rex : Bool) (v : Word) :
    RegisterMove i (writtenReg n w rex) s (complete (regWrite s n w rex v) i.length false) :=
  registerMove_complete (fun _ hj => getX_regWrite_other v hj) (regWrite_seg s n w rex v) (regWrite_mem s n w rex v)
    (regWrite_rip s n w rex v) ((SystemAndCsKept.refl s).after_regWrite n w rex v)

/-! ## What a written register holds (R22, R23) -/

theorem getX_regWrite_w16 (s : State) (n : BitVec 4) (rex : Bool) (v : Word) :
    (regWrite s n .w16 rex v).getX n = (s.getX n).extractLsb' 16 48 ++ v.extractLsb' 0 16 := getX_setX_same s n _

theorem getX_regWrite_w32_low (s : State) (n : BitVec 4) (rex : Bool) (v : Word) :
    ((regWrite s n .w32 rex v).getX n).extractLsb' 0 32 = v.extractLsb' 0 32 := by
  simp only [regWrite]
  split <;> rw [getX_setX_same, BitVec.extractLsb'_append_eq_of_add_le (by decide), BitVec.extractLsb'_eq_self]

theorem getX_regWrite_w32_high {s : State} (n : BitVec 4) (rex : Bool) (v : Word) (hm : s.mode = .long64) :
    ((regWrite s n .w32 rex v).getX n).extractLsb' 32 32 = 0#32 := by
  rw [regWrite, if_pos hm, getX_setX_same, BitVec.extractLsb'_append_eq_of_le (by decide)]
  rfl

theorem getX_regWrite_w64 (s : State) (n : BitVec 4) (rex : Bool) (v : Word) : (regWrite s n .w64 rex v).getX n = v :=
  getX_setX_same s n v

theorem getX_regWrite_rexByte (s : State) (n : BitVec 4) (v : Word) :
    (regWrite s n .w8 true v).getX n = (s.getX n).extractLsb' 8 56 ++ v.extractLsb' 0 8 := getX_setX_same s n _

/-- Without REX the byte registers 0 to 3 are low bytes, 4 to 7 high bytes of the same four registers (R22). -/
theorem byteLoc_legacy (n : BitVec 3) :
    byteLoc (BitVec.ofBool false ++ n) false =
      if n < 4#3 then .low (legacyByteReg n) else .high (legacyByteReg n) := by
  revert n
  decide

theorem writtenReg_legacy (n : BitVec 3) : writtenReg (BitVec.ofBool false ++ n) .w8 false = legacyByteReg n := by
  simp only [writtenReg, byteLoc_legacy]
  by_cases hn : n < 4#3 <;> simp [hn]

theorem getX_regWrite_legacyByte (s : State) (n : BitVec 3) (v : Word) :
    (regWrite s (BitVec.ofBool false ++ n) .w8 false v).getX (legacyByteReg n) =
      withLegacyByte (s.getX (legacyByteReg n)) n (v.extractLsb' 0 8) := by
  simp only [regWrite, byteLoc_legacy, withLegacyByte]
  by_cases hn : n < 4#3 <;> simp [hn]

/-- A value of `w` bits, held zero-extended, has its own low bits. -/
theorem setWidth_low {w : Nat} (x : BitVec w) (hw : w ≤ 64) : (x.setWidth 64).extractLsb' 0 w = x := by
  rw [BitVec.extractLsb'_setWidth_of_le (by omega), BitVec.extractLsb'_eq_self]

theorem regRead_legacyByte (s : State) (n : BitVec 3) :
    regRead s (BitVec.ofBool false ++ n) .w8 false = (legacyByte s n).setWidth 64 := by
  simp only [regRead, byteLoc_legacy, legacyByte]
  by_cases hn : n < 4#3 <;> simp [hn]

theorem regRead_rexByte_low (s : State) (n : BitVec 4) :
    (regRead s n .w8 true).extractLsb' 0 8 = (s.getX n).extractLsb' 0 8 := setWidth_low _ (by decide)

theorem regRead_w16_low (s : State) (n : BitVec 4) (rex : Bool) :
    (regRead s n .w16 rex).extractLsb' 0 16 = (s.getX n).extractLsb' 0 16 := setWidth_low _ (by decide)

theorem regRead_w32_low (s : State) (n : BitVec 4) (rex : Bool) :
    (regRead s n .w32 rex).extractLsb' 0 32 = (s.getX n).extractLsb' 0 32 := setWidth_low _ (by decide)

/-! ## The moves to a register without LOCK -/

theorem moveToRM_reg_unlocked {i : Instr} {w : Width} {n : BitVec 3} {v : Word} {s : State}
    (hl : i.prefixes.lock = false) :
    moveToRM i w (.reg n) v s =
      .next (complete (regWrite s (rmNum i.prefixes n) w i.prefixes.rexPresent v) i.length false) :=
  runMove_unlocked _ hl

theorem moveFromRM_unlocked {i : Instr} {w : Width} {reg : BitVec 3} {rm : RM} {v : Word} {s : State}
    (hl : i.prefixes.lock = false) (hv : readRM s i.prefixes i.length w rm = .next v) :
    moveFromRM i w reg rm s =
      .next (complete (regWrite s (regNum i.prefixes reg) w i.prefixes.rexPresent v) i.length false) := by
  rw [moveFromRM, runMove_unlocked _ hl, hv]
  rfl

theorem moveToOpReg_unlocked {i : Instr} {w : Width} {r : BitVec 3} {v : Word} {s : State}
    (hl : i.prefixes.lock = false) :
    moveToOpReg i w r v s =
      .next (complete (regWrite s (rmNum i.prefixes r) w i.prefixes.rexPresent v) i.length false) :=
  runMove_unlocked _ hl

/-! ## What a completed write of a register leaves, width by width -/

section
variable {i : Instr} {s : State} {n : BitVec 4} {rex : Bool} {v : Word}

theorem exists_legacyByteMove {r : BitVec 3} {b : Byte}
    (h : exec i s = .next (complete (regWrite s n .w8 rex v) i.length false)) (hn : n = BitVec.ofBool false ++ r)
    (hrex : rex = false) (hv : v.extractLsb' 0 8 = b) :
    ∃ t, exec i s = .next t ∧ t.getX (legacyByteReg r) = withLegacyByte (s.getX (legacyByteReg r)) r b ∧
      RegisterMove i (legacyByteReg r) s t := by
  subst hn hrex hv
  exact ⟨_, h, getX_regWrite_legacyByte s r v, writtenReg_legacy r ▸ registerMove_regWrite i s _ .w8 false v⟩

theorem exists_rexByteMove {d : BitVec 4} {b : Byte}
    (h : exec i s = .next (complete (regWrite s n .w8 rex v) i.length false)) (hn : n = d) (hrex : rex = true)
    (hv : v.extractLsb' 0 8 = b) :
    ∃ t, exec i s = .next t ∧ t.getX d = (s.getX d).extractLsb' 8 56 ++ b ∧ RegisterMove i d s t := by
  subst hn hrex hv
  exact ⟨_, h, getX_regWrite_rexByte s n v, registerMove_regWrite i s n .w8 true v⟩

theorem exists_wordMove {x : BitVec 16} (h : exec i s = .next (complete (regWrite s n .w16 rex v) i.length false))
    (hv : v.extractLsb' 0 16 = x) :
    ∃ t, exec i s = .next t ∧ t.getX n = (s.getX n).extractLsb' 16 48 ++ x ∧ RegisterMove i n s t := by
  subst hv
  exact ⟨_, h, getX_regWrite_w16 s n rex v, registerMove_regWrite i s n .w16 rex v⟩

theorem exists_doublewordMove {x : BitVec 32} (h : exec i s = .next (complete (regWrite s n .w32 rex v) i.length false))
    (hv : v.extractLsb' 0 32 = x) :
    ∃ t, exec i s = .next t ∧ (t.getX n).extractLsb' 0 32 = x ∧
      (s.mode = .long64 → (t.getX n).extractLsb' 32 32 = 0#32) ∧ RegisterMove i n s t := by
  subst hv
  exact ⟨_, h, getX_regWrite_w32_low s n rex v, getX_regWrite_w32_high n rex v, registerMove_regWrite i s n .w32 rex v⟩

theorem exists_quadwordMove (h : exec i s = .next (complete (regWrite s n .w64 rex v) i.length false)) :
    ∃ t, exec i s = .next t ∧ t.getX n = v ∧ RegisterMove i n s t :=
  ⟨_, h, getX_regWrite_w64 s n rex v, registerMove_regWrite i s n .w64 rex v⟩

end

/-! ## Register numbers (R88) -/

section
variable {p : Prefixes}

theorem rexPresent_of_none (h : p.rex = none) : p.rexPresent = false := by simp [Prefixes.rexPresent, h]

theorem rexPresent_of_some {x : Rex} (h : p.rex = some x) : p.rexPresent = true := by simp [Prefixes.rexPresent, h]

theorem regNum_of_none (n : BitVec 3) (h : p.rex = none) : regNum p n = BitVec.ofBool false ++ n := by
  simp [regNum, Prefixes.r, h]

theorem rmNum_of_none (n : BitVec 3) (h : p.rex = none) : rmNum p n = BitVec.ofBool false ++ n := by
  simp [rmNum, Prefixes.b, h]

theorem regNum_of_some {x : Rex} (n : BitVec 3) (h : p.rex = some x) : regNum p n = BitVec.ofBool x.r ++ n := by
  simp [regNum, Prefixes.r, h]

theorem rmNum_of_some {x : Rex} (n : BitVec 3) (h : p.rex = some x) : rmNum p n = BitVec.ofBool x.b ++ n := by
  simp [rmNum, Prefixes.b, h]

/-- The byte that a register number names in an instruction without REX (R22). -/
theorem regRead_w8_of_none {s : State} {n : BitVec 4} {r : BitVec 3} (h : p.rex = none) (hn : n = BitVec.ofBool false ++ r) :
    (regRead s n .w8 p.rexPresent).extractLsb' 0 8 = legacyByte s r := by
  rw [hn, rexPresent_of_none h, regRead_legacyByte, setWidth_low _ (by decide)]

/-- The byte that a register number names in an instruction with REX (R22). -/
theorem regRead_w8_of_some {s : State} {x : Rex} {n d : BitVec 4} (h : p.rex = some x) (hn : n = d) :
    (regRead s n .w8 p.rexPresent).extractLsb' 0 8 = (s.getX d).extractLsb' 0 8 := by
  rw [hn, rexPresent_of_some h, regRead_rexByte_low]

end

/-! ## The statements -/

/-- Settles O9: without REX the byte written and the byte read are those of R22. -/
theorem byteRegisterMoves : Obligations.ByteRegisterMoves := by
  unfold Obligations.ByteRegisterMoves
  intro p reg rm s hl hrex
  have hreg := regNum_of_none reg hrex
  have hrm := rmNum_of_none rm hrex
  have hno := rexPresent_of_none hrex
  exact ⟨exists_legacyByteMove (moveToRM_reg_unlocked hl) hrm hno (regRead_w8_of_none hrex hreg),
    exists_legacyByteMove (moveFromRM_unlocked hl rfl) hreg hno (regRead_w8_of_none hrex hrm)⟩

/-- Settles O10: with REX every register number names a low byte. -/
theorem rexByteRegisterMoves : Obligations.RexByteRegisterMoves := by
  unfold Obligations.RexByteRegisterMoves
  intro p x reg rm s hl hrex
  have hreg := regNum_of_some reg hrex
  have hrm := rmNum_of_some rm hrex
  have hyes := rexPresent_of_some hrex
  exact ⟨exists_rexByteMove (moveToRM_reg_unlocked hl) hrm hyes (regRead_w8_of_some hrex hreg),
    exists_rexByteMove (moveFromRM_unlocked hl rfl) hreg hyes (regRead_w8_of_some hrex hrm)⟩

/-- Settles O11. -/
theorem wordRegisterMoves : Obligations.WordRegisterMoves := by
  unfold Obligations.WordRegisterMoves
  intro p reg rm s hl
  exact ⟨exists_wordMove (moveToRM_reg_unlocked hl) (regRead_w16_low s _ _),
    exists_wordMove (moveFromRM_unlocked hl rfl) (regRead_w16_low s _ _)⟩

/-- Settles O12. -/
theorem doublewordRegisterMoves : Obligations.DoublewordRegisterMoves := by
  unfold Obligations.DoublewordRegisterMoves
  intro p reg rm s hl
  exact ⟨exists_doublewordMove (moveToRM_reg_unlocked hl) (regRead_w32_low s _ _),
    exists_doublewordMove (moveFromRM_unlocked hl rfl) (regRead_w32_low s _ _)⟩

/-- Settles O13. -/
theorem quadwordRegisterMoves : Obligations.QuadwordRegisterMoves := by
  unfold Obligations.QuadwordRegisterMoves
  intro p reg rm s hl
  exact ⟨exists_quadwordMove (moveToRM_reg_unlocked hl), exists_quadwordMove (moveFromRM_unlocked hl rfl)⟩

/-- Settles O14: the register of B0+ and that of C6 /0 are numbered alike. -/
theorem immediateByteToRegister : Obligations.ImmediateByteToRegister := by
  unfold Obligations.ImmediateByteToRegister
  refine ⟨fun p r imm s hl hrex => ?_, fun p x r imm s hl hrex => ?_⟩
  · have hr := rmNum_of_none r hrex
    have hno := rexPresent_of_none hrex
    exact ⟨exists_legacyByteMove (moveToOpReg_unlocked hl) hr hno (setWidth_low imm (by decide)),
      exists_legacyByteMove (moveToRM_reg_unlocked hl) hr hno (setWidth_low imm (by decide))⟩
  · have hr := rmNum_of_some r hrex
    have hyes := rexPresent_of_some hrex
    exact ⟨exists_rexByteMove (moveToOpReg_unlocked hl) hr hyes (setWidth_low imm (by decide)),
      exists_rexByteMove (moveToRM_reg_unlocked hl) hr hyes (setWidth_low imm (by decide))⟩

/-- Settles O15. -/
theorem immediateToOpcodeRegister : Obligations.ImmediateToOpcodeRegister := by
  unfold Obligations.ImmediateToOpcodeRegister
  exact ⟨fun p r imm s hl => exists_wordMove (moveToOpReg_unlocked hl) (setWidth_low imm (by decide)),
    fun p r imm s hl => exists_doublewordMove (moveToOpReg_unlocked hl) (setWidth_low imm (by decide)),
    fun p r imm s hl => exists_quadwordMove (moveToOpReg_unlocked hl)⟩

/-- Settles O16: sign extension keeps the signed value. -/
theorem immediateToModRMRegister : Obligations.ImmediateToModRMRegister := by
  unfold Obligations.ImmediateToModRMRegister
  refine ⟨fun p r imm s hl => exists_wordMove (moveToRM_reg_unlocked hl) (setWidth_low imm (by decide)),
    fun p r imm s hl => exists_doublewordMove (moveToRM_reg_unlocked hl) (setWidth_low imm (by decide)),
    fun p r imm s hl => ?_⟩
  obtain ⟨t, hexec, hvalue, hframe⟩ := exists_quadwordMove (i := .movRm64Imm32 p (.reg r) imm) (s := s)
    (moveToRM_reg_unlocked hl)
  exact ⟨t, hexec, (congrArg BitVec.toInt hvalue).trans (BitVec.toInt_signExtend_of_le (by decide)), hframe⟩

/-! ## The two directions of a register move (R103) -/

/-- Two instructions with the same length and the same LOCK, and the same move, have the same outcome. -/
theorem runMove_congr {i j : Instr} (s : State) (move : Res State) (hlock : i.prefixes.lock = j.prefixes.lock)
    (hlen : i.length = j.length) : runMove i s move = runMove j s move := by
  simp only [runMove, encodingFault, hlock, hlen]

section
variable {p q : Prefixes} (hq : q = { p with rex := p.rex.map fun x => ⟨x.w, x.b, x.x, x.r⟩ })
include hq

theorem regNum_exchanged (n : BitVec 3) : regNum q n = rmNum p n := by
  cases hrex : p.rex <;> simp [hq, hrex, regNum, rmNum, Prefixes.r, Prefixes.b]

theorem rmNum_exchanged (n : BitVec 3) : rmNum q n = regNum p n := by
  cases hrex : p.rex <;> simp [hq, hrex, regNum, rmNum, Prefixes.r, Prefixes.b]

theorem rexPresent_exchanged : q.rexPresent = p.rexPresent := by
  cases hrex : p.rex <;> simp [hq, hrex, Prefixes.rexPresent]

theorem bytes_length_exchanged : q.bytes.length = p.bytes.length := by
  cases hrex : p.rex <;> simp [hq, hrex, Prefixes.bytes]

/-- The two directions write the same register with the same value, after the same encoding (R103). -/
theorem moveToRM_eq_moveFromRM {i j : Instr} (w : Width) (a b : BitVec 3) (s : State) (hi : i.prefixes = p)
    (hj : j.prefixes = q) (hbody : i.body.length = j.body.length) :
    moveToRM i w (.reg b) (regRead s (regNum p a) w p.rexPresent) s = moveFromRM j w b (.reg a) s := by
  have hlock : i.prefixes.lock = j.prefixes.lock := by rw [hi, hj, hq]
  have hlen : i.length = j.length := by
    simp only [Instr.length, encode, List.length_append, hi, hj, hbody, bytes_length_exchanged hq]
  simp only [moveToRM, moveFromRM, writeRM, readRM, andThen_next, hi, hj, regNum_exchanged hq, rmNum_exchanged hq,
    rexPresent_exchanged hq]
  exact runMove_congr s _ hlock hlen

end

/-- Settles O53, row by row. -/
theorem directionsOfRegisterMovesAgree : Obligations.DirectionsOfRegisterMovesAgree := by
  unfold Obligations.DirectionsOfRegisterMovesAgree
  intro p q a b s hq
  exact ⟨moveToRM_eq_moveFromRM hq .w8 a b s rfl rfl rfl, moveToRM_eq_moveFromRM hq .w8 a b s rfl rfl rfl,
    moveToRM_eq_moveFromRM hq .w16 a b s rfl rfl rfl, moveToRM_eq_moveFromRM hq .w32 a b s rfl rfl rfl,
    moveToRM_eq_moveFromRM hq .w64 a b s rfl rfl rfl⟩

/-! ## Opcode 8C to a register (R140, R141, R146) -/

theorem registerMove_writeSelReg (i : Instr) (s : State) (p : Prefixes) (o : OpSize) (n : BitVec 3) (sel : BitVec 16) :
    RegisterMove i (rmNum p n) s (complete (writeSelReg s p o n sel) i.length false) := by
  have hkept := (SystemAndCsKept.refl s).after_writeSelReg p o n sel
  obtain ⟨w, v, hw, h | h⟩ := writeSelReg_cases s p o n sel
  · have hmove := registerMove_regWrite i s (rmNum p n) w p.rexPresent v
    rwa [writtenReg_of_ne_w8 hw, ← h] at hmove
  · rw [h] at hkept ⊢
    exact registerMove_complete
      (fun j hj => getX_regWrite_other v (by rwa [writtenReg_of_ne_w8 hw])) (regWrite_seg s.draw.2 _ w _ v)
      (regWrite_mem s.draw.2 _ w _ v) (regWrite_rip s.draw.2 _ w _ v) hkept

/-- At 16 bits the other bits of the register are kept (R140). -/
theorem getX_writeSelReg_o16_high (s : State) (p : Prefixes) (n : BitVec 3) (sel : BitVec 16) :
    ((writeSelReg s p .o16 n sel).getX (rmNum p n)).extractLsb' 16 48 = (s.getX (rmNum p n)).extractLsb' 16 48 := by
  rw [writeSelReg, getX_regWrite_w16, BitVec.extractLsb'_append_eq_of_le (by decide)]
  exact BitVec.extractLsb'_eq_self

/-- At 32 bits, with `SREG_HI16` zero, bits 31:16 are 0 (R146). -/
theorem getX_writeSelReg_o32_zero {s : State} (p : Prefixes) (n : BitVec 3) (sel : BitVec 16)
    (hz : s.impl.sregHi16 = .zero) :
    ((writeSelReg s p .o32 n sel).getX (rmNum p n)).extractLsb' 16 16 = 0#16 := by
  have hlow := getX_regWrite_w32_low s (rmNum p n) p.rexPresent (sel.setWidth 64)
  have hbits : ∀ x : Word, x.extractLsb' 16 16 = (x.extractLsb' 0 32).extractLsb' 16 16 := fun x => by
    rw [BitVec.extractLsb'_extractLsb'_of_le (by decide)]
  simp only [writeSelReg, hz]
  rw [hbits, hlow, ← hbits]
  ext j hj
  simp

/-- At 32 bits in `Long64` the high half is cleared (R23). -/
theorem getX_writeSelReg_o32_high {s : State} (p : Prefixes) (n : BitVec 3) (sel : BitVec 16) (hm : s.mode = .long64) :
    ((writeSelReg s p .o32 n sel).getX (rmNum p n)).extractLsb' 32 32 = 0#32 := by
  simp only [writeSelReg]
  split
  · exact getX_regWrite_w32_high _ _ _ hm
  · exact getX_regWrite_w32_high (s := s.draw.2) _ _ _ hm

/-- Settles O35, at each operand size. -/
theorem selectorToRegister : Obligations.SelectorToRegister := by
  unfold Obligations.SelectorToRegister
  refine ⟨?numbers, fun p reg rm k s hl hr hk => ⟨⟨_, moveFromSreg_reg_unlocked hl hr hk,
    getX_writeSelReg_low_word s p _ rm _, ?o16, ?o32zero, ?o32high, registerMove_writeSelReg _ s p _ rm _⟩,
    ⟨_, moveFromSreg_reg_unlocked hl hr hk, getX_setX_same s _ _, registerMove_writeSelReg _ s p .o64 rm _⟩⟩⟩
  case numbers =>
    simp only [List.mem_cons, Prod.mk.injEq, List.not_mem_nil, or_false]
    rintro n k (⟨rfl, rfl⟩ | ⟨rfl, rfl⟩ | ⟨rfl, rfl⟩ | ⟨rfl, rfl⟩ | ⟨rfl, rfl⟩ | ⟨rfl, rfl⟩ | ⟨rfl, rfl⟩ | ⟨rfl, rfl⟩) <;>
    rfl
  case o16 =>
    intro ho
    rw [ho]
    exact getX_writeSelReg_o16_high s p rm _
  case o32zero =>
    intro ho hz
    rw [ho]
    exact getX_writeSelReg_o32_zero p rm _ hz
  case o32high =>
    intro ho hm
    rw [ho]
    exact getX_writeSelReg_o32_high p rm _ hm

end Sys2Proof.Machine

/-! PROOF. The memory forms of 40_mov_reg_rm.md, 42_mov_moffs.md and 43_mov_imm.md, and 8C to memory (O17 to O22, O36): the
storing moves as one effect on memory, the loading moves as one read, each without LOCK; then the statements. -/

namespace Sys2Proof.Machine

/-! ## Stores outside the program (R50, R52, R70) -/

/-- A write whose bytes resolve outside the program changes memory there and nothing else (R52, R70). -/
theorem segWrite_of_outside {s : State} {k : SReg} {off : Word} {n : Nat} {as : List Nat} (v : Word)
    (hd : dataAddrs s k off n .write = .next as) (hp : as.any (inRegions s.program) = false) :
    segWrite s k off n v = .next { s with mem := s.mem.writeAll as v } := by
  rw [segWrite_of_dataAddrs v hd, storeAt, hp]
  rfl

section
variable {i : Instr} {s : State} {as : List Nat} {v : Word}

theorem moveToRM_mem_outside {w : Width} {m : MemRef} (hl : i.prefixes.lock = false)
    (hd : dataAddrs s (memSeg s i.prefixes m) (effAddr s i.prefixes i.length m) w.bytes .write = .next as)
    (hp : as.any (inRegions s.program) = false) :
    moveToRM i w (.mem m) v s = .next (complete { s with mem := s.mem.writeAll as v } i.length false) := by
  rw [moveToRM_mem_unlocked hl, segWrite_of_outside v hd hp, andThen_next]

theorem moveToMoffs_outside {w : Width} {m : Moffs} (hl : i.prefixes.lock = false)
    (hp : as.any (inRegions s.program) = false)
    (hd : dataAddrs s (moffsSeg s i.prefixes) (moffsValue m) w.bytes .write = .next as) :
    moveToMoffs i w m s =
      .next (complete { s with mem := s.mem.writeAll as (regRead s 0 w true) } i.length false) := by
  rw [moveToMoffs_unlocked hl, segWrite_of_outside _ hd hp, andThen_next]

theorem moveFromSreg_mem_outside {o : OpSize} {reg : BitVec 3} {k : SReg} {m : MemRef} (hl : i.prefixes.lock = false)
    (hr : i.prefixes.r = false) (hk : sregOfField reg = some k) (hp : as.any (inRegions s.program) = false)
    (hd : dataAddrs s (memSeg s i.prefixes m) (effAddr s i.prefixes i.length m) (sregMemBytes s o) .write = .next as) :
    moveFromSreg i o reg (.mem m) s =
      .next (complete { s with mem := s.mem.writeAll as ((s.sreg k).sel.setWidth 64) } i.length false) := by
  rw [moveFromSreg_mem_unlocked hl hr hk, segWrite_of_outside _ hd hp, andThen_next]

/-- What a completed store leaves alone. -/
theorem storeMove_complete (i : Instr) (s : State) (as : List Nat) (v : Word) :
    StoreMove i as s (complete { s with mem := s.mem.writeAll as v } i.length false) :=
  ⟨fun _ => rfl, rfl, fun _ ha => Memory.read_writeAll_other v ha,
    (((SystemAndCsKept.refl s).after_withMem _).after_complete _ _).system, pcAdvanced_of_rip rfl, rfl⟩

/-- Two values agree in their low `n` bytes. -/
def SameLowBytes (n : Nat) (v x : Word) : Prop := ∀ k < n, (v >>> (8 * k)).setWidth 8 = (x >>> (8 * k)).setWidth 8

theorem SameLowBytes.refl (n : Nat) (v : Word) : SameLowBytes n v v := fun _ _ => rfl

/-- A move that answers one store, completed: the frame, and the bytes stored (R50). -/
theorem exists_storeMove {k : SReg} {off : Word} {n : Nat} {x : Word}
    (hd : dataAddrs s k off n .write = .next as)
    (h : exec i s = .next (complete { s with mem := s.mem.writeAll as v } i.length false)) (hv : SameLowBytes n v x) :
    ∃ t, exec i s = .next t ∧ StoreMove i as s t ∧ (s.mem.wf = true → as.Nodup → Stored t as x) := by
  refine ⟨_, h, storeMove_complete i s as v, fun hwf hnodup j hj => ?_⟩
  obtain ⟨-, -, -, hlen, -⟩ := dataAddrs_eq_next hd
  rw [complete_mem, Memory.read_writeAll_same v hwf hnodup j hj]
  exact hv j (hlen ▸ hj)

end

/-- Zero-extending the low `w` bits keeps the low `w / 8` bytes. -/
theorem sameLowBytes_extract (x : Word) (w n : Nat) (hn : 8 * n ≤ w) :
    SameLowBytes n ((x.extractLsb' 0 w).setWidth 64) x := by
  intro k hk
  ext j hj
  simp only [BitVec.getElem_setWidth, BitVec.getLsbD_ushiftRight, BitVec.getLsbD_setWidth, BitVec.getLsbD_extractLsb',
    Nat.zero_add]
  have hlow : 8 * k + j < w := by omega
  by_cases hin : 8 * k + j < 64
  · simp [hlow, hin]
  · simp [hin, BitVec.getLsbD_of_ge x (8 * k + j) (by omega)]

/-- A register is stored with its own low bytes (R23). -/
theorem sameLowBytes_regRead (s : State) (n : BitVec 4) (w : Width) (rex : Bool) (h : w ≠ .w8 ∨ rex = true) :
    SameLowBytes w.bytes (regRead s n w rex) (s.getX n) := by
  cases w with
  | w8 =>
    obtain rfl : rex = true := by simpa using h
    exact sameLowBytes_extract _ 8 1 (by decide)
  | w16 => exact sameLowBytes_extract _ 16 2 (by decide)
  | w32 => exact sameLowBytes_extract _ 32 4 (by decide)
  | w64 => exact .refl _ _

/-- Settles O17, width by width. -/
theorem registerStores : Obligations.RegisterStores := by
  unfold Obligations.RegisterStores
  refine ⟨fun p reg m s as hl hrex hd hp => ?_, fun p x reg m s as hl hrex hd hp => ?_, fun p reg m s as hl hd hp => ?_,
    fun p reg m s as hl hd hp => ?_, fun p reg m s as hl hd hp => ?_⟩
  · refine exists_storeMove hd (moveToRM_mem_outside hl hd hp) ?_
    rw [regNum_of_none reg hrex, rexPresent_of_none hrex, regRead_legacyByte]
    exact .refl _ _
  · exact exists_storeMove hd (moveToRM_mem_outside hl hd hp)
      (sameLowBytes_regRead s _ .w8 _ (.inr (rexPresent_of_some hrex)))
  · exact exists_storeMove hd (moveToRM_mem_outside hl hd hp) (sameLowBytes_regRead s _ .w16 _ (.inl (by decide)))
  · exact exists_storeMove hd (moveToRM_mem_outside hl hd hp) (sameLowBytes_regRead s _ .w32 _ (.inl (by decide)))
  · exact exists_storeMove hd (moveToRM_mem_outside hl hd hp) (sameLowBytes_regRead s _ .w64 _ (.inl (by decide)))

/-- Settles O18. -/
theorem immediateStores : Obligations.ImmediateStores := by
  unfold Obligations.ImmediateStores
  exact ⟨fun p m imm s as hl hd hp => exists_storeMove hd (moveToRM_mem_outside hl hd hp) (.refl _ _),
    fun p m imm s as hl hd hp => exists_storeMove hd (moveToRM_mem_outside hl hd hp) (.refl _ _),
    fun p m imm s as hl hd hp => exists_storeMove hd (moveToRM_mem_outside hl hd hp) (.refl _ _),
    fun p m imm s as hl hd hp => exists_storeMove hd (moveToRM_mem_outside hl hd hp) (.refl _ _),
    fun p m imm s as hl hd hp => exists_storeMove hd (moveToRM_mem_outside hl hd hp) (.refl _ _)⟩

/-- The offset is zero-extended (R97, R170). -/
theorem moffsValue_toNat :
    (∀ o, (moffsValue (.off16 o)).toNat = o.toNat) ∧ (∀ o, (moffsValue (.off32 o)).toNat = o.toNat) ∧
      ∀ o, moffsValue (.off64 o) = o :=
  ⟨fun o => BitVec.toNat_setWidth_of_le (by decide), fun o => BitVec.toNat_setWidth_of_le (by decide), fun _ => rfl⟩

/-- Settles O19, width by width. -/
theorem accumulatorStores : Obligations.AccumulatorStores := by
  unfold Obligations.AccumulatorStores
  obtain ⟨h16, h32, h64⟩ := moffsValue_toNat
  refine ⟨h16, h32, h64, fun p m s as hl hp => ?_⟩
  have hlow : ∀ w : Width, SameLowBytes w.bytes (regRead s 0 w true) (s.getX 0) := fun w =>
    sameLowBytes_regRead s 0 w true (.inr rfl)
  exact ⟨fun hd => ⟨exists_storeMove hd (moveToMoffs_outside hl hp hd) (hlow .w8),
      exists_storeMove hd (moveToMoffs_outside hl hp hd) (hlow .w8)⟩,
    fun hd => exists_storeMove hd (moveToMoffs_outside hl hp hd) (hlow .w16),
    fun hd => exists_storeMove hd (moveToMoffs_outside hl hp hd) (hlow .w32),
    fun hd => exists_storeMove hd (moveToMoffs_outside hl hp hd) (hlow .w64)⟩

/-- Settles O36. -/
theorem selectorToMemory : Obligations.SelectorToMemory := by
  unfold Obligations.SelectorToMemory
  refine ⟨fun s => ⟨rfl, fun h => ?_, fun h => ?_⟩, fun p reg m k s as hl hr hk hp => ⟨fun hd => ?_, fun hd => ?_⟩⟩
  · simp [sregMemBytes, h]
  · simp [sregMemBytes, h]
  · exact exists_storeMove hd (moveFromSreg_mem_outside hl hr hk hp hd) (.refl _ _)
  · exact exists_storeMove hd (moveFromSreg_mem_outside hl hr hk hp hd) (.refl _ _)

/-! ## Loads (R50, R52) -/

/-- The first byte is the lowest of the value read (R50). -/
theorem leValue_cons_low (b : Byte) (bs : List Byte) {w : Nat} (hw : w + 8 ≤ 64) :
    (leValue (b :: bs)).extractLsb' 0 (w + 8) = (leValue bs).extractLsb' 0 w ++ b := by
  refine BitVec.eq_of_getLsbD_eq fun j hj => ?_
  have hin : j < 64 := by omega
  rw [BitVec.getLsbD_append]
  by_cases hlow : j < 8
  · simp [leValue, hlow, hin, hj]
  · have hhigh : j - 8 < w := by omega
    simp [leValue, hlow, hhigh, hin, hj, BitVec.getLsbD_of_ge b j (by omega), -BitVec.getLsbD_eq_getElem]

/-- The value of one byte, and of one byte before others. -/
theorem readAll_low_byte (m : Memory) (a : Nat) (rest : List Nat) : (m.readAll (a :: rest)).extractLsb' 0 8 = m.read a := by
  rw [Memory.readAll, List.map_cons, leValue_cons_low (w := 0) _ _ (by decide), BitVec.zero_width_append]
  rfl

theorem readAll_low_doubleword (m : Memory) (a b c d : Nat) (rest : List Nat) :
    (m.readAll (a :: b :: c :: d :: rest)).extractLsb' 0 32 = m.read d ++ m.read c ++ m.read b ++ m.read a := by
  have hlast := readAll_low_byte m d rest
  simp only [Memory.readAll, List.map_cons] at hlast ⊢
  rw [leValue_cons_low (w := 24) _ _ (by decide), leValue_cons_low (w := 16) _ _ (by decide),
    leValue_cons_low (w := 8) _ _ (by decide), hlast]

theorem readAll_quadword (m : Memory) (a b c d e f g h : Nat) :
    m.readAll [a, b, c, d, e, f, g, h] = m.read h ++ m.read g ++ m.read f ++ m.read e ++ m.read d ++ m.read c ++ m.read b ++
      m.read a := by
  have hhigh := readAll_low_doubleword m e f g h []
  simp only [Memory.readAll, List.map_cons, List.map_nil] at hhigh ⊢
  rw [← BitVec.extractLsb'_eq_self (x := leValue _), leValue_cons_low (w := 56) _ _ (by decide),
    leValue_cons_low (w := 48) _ _ (by decide), leValue_cons_low (w := 40) _ _ (by decide),
    leValue_cons_low (w := 32) _ _ (by decide), hhigh]

theorem segRead_of_dataAddrs {s : State} {k : SReg} {off : Word} {n : Nat} {as : List Nat}
    (hd : dataAddrs s k off n .read = .next as) : segRead s k off n = .next (s.mem.readAll as) := by
  rw [segRead, hd, andThen_next]

section
variable {i : Instr} {s : State} {as : List Nat} {w : Width}

theorem moveFromRM_mem_unlocked {reg : BitVec 3} {m : MemRef} (hl : i.prefixes.lock = false)
    (hd : dataAddrs s (memSeg s i.prefixes m) (effAddr s i.prefixes i.length m) w.bytes .read = .next as) :
    moveFromRM i w reg (.mem m) s =
      .next (complete (regWrite s (regNum i.prefixes reg) w i.prefixes.rexPresent (s.mem.readAll as)) i.length false) :=
  moveFromRM_unlocked hl (segRead_of_dataAddrs hd)

theorem moveFromMoffs_unlocked {m : Moffs} (hl : i.prefixes.lock = false)
    (hd : dataAddrs s (moffsSeg s i.prefixes) (moffsValue m) w.bytes .read = .next as) :
    moveFromMoffs i w m s = .next (complete (regWrite s 0 w true (s.mem.readAll as)) i.length false) := by
  rw [moveFromMoffs, runMove_unlocked _ hl, segRead_of_dataAddrs hd]
  rfl

end

/-- Settles O20, width by width. -/
theorem registerLoads : Obligations.RegisterLoads := by
  unfold Obligations.RegisterLoads
  refine ⟨fun p reg m s a hl hrex hd => ?_, fun p x reg m s a hl hrex hd => ?_, fun p reg m s a b hl hd => ?_,
    fun p reg m s a b c d hl hd => ?_, fun p reg m s a b c d e f g h hl hd => ?_⟩
  · exact exists_legacyByteMove (moveFromRM_mem_unlocked hl hd) (regNum_of_none reg hrex) (rexPresent_of_none hrex)
      (readAll_low_byte s.mem a [])
  · exact exists_rexByteMove (moveFromRM_mem_unlocked hl hd) rfl (rexPresent_of_some hrex) (readAll_low_byte s.mem a [])
  · rw [BitVec.append_assoc, BitVec.cast_eq]
    exact exists_wordMove (moveFromRM_mem_unlocked hl hd) (readAll_low_word s.mem a b [])
  · exact exists_doublewordMove (moveFromRM_mem_unlocked hl hd) (readAll_low_doubleword s.mem a b c d [])
  · rw [← readAll_quadword]
    exact exists_quadwordMove (moveFromRM_mem_unlocked hl hd)

/-- Settles O21, width by width. -/
theorem accumulatorLoads : Obligations.AccumulatorLoads := by
  unfold Obligations.AccumulatorLoads
  refine ⟨moffsValue_toNat, fun p m s a hl hd => ⟨?_, ?_⟩, fun p m s a b hl hd => ?_, fun p m s a b c d hl hd => ?_,
    fun p m s a b c d e f g h hl hd => ?_⟩
  · exact exists_rexByteMove (moveFromMoffs_unlocked hl hd) rfl rfl (readAll_low_byte s.mem a [])
  · exact exists_rexByteMove (moveFromMoffs_unlocked hl hd) rfl rfl (readAll_low_byte s.mem a [])
  · rw [BitVec.append_assoc, BitVec.cast_eq]
    exact exists_wordMove (moveFromMoffs_unlocked hl hd) (readAll_low_word s.mem a b [])
  · exact exists_doublewordMove (moveFromMoffs_unlocked hl hd) (readAll_low_doubleword s.mem a b c d [])
  · rw [← readAll_quadword]
    exact exists_quadwordMove (moveFromMoffs_unlocked hl hd)

/-! ## Accesses that fault or are refused (R121, R223) -/

/-- Where the operation `r` stops, by a fault or a refusal, `x` stops in the same way. -/
def StopsAs {α β : Type} (x : Res β) (r : Res α) : Prop :=
  (∀ f, r = .fault f → x = .fault f) ∧ ∀ f, r = .refused f → x = .refused f

theorem StopsAs.refl {α : Type} (r : Res α) : StopsAs r r := ⟨fun _ h => h, fun _ h => h⟩

theorem StopsAs.andThen {α β γ : Type} {r : Res α} {x : Res β} (h : StopsAs x r) (f : β → Res γ) :
    StopsAs (Machine.andThen x f) r := by
  refine ⟨fun e he => ?_, fun e he => ?_⟩
  · rw [h.1 e he, andThen_fault]
  · rw [h.2 e he, andThen_refused]

section
variable {i : Instr} {s : State} {w : Width} (hl : i.prefixes.lock = false)
include hl

theorem moveToRM_mem_stops {m : MemRef} {v : Word} :
    StopsAs (moveToRM i w (.mem m) v s)
      (dataAddrs s (memSeg s i.prefixes m) (effAddr s i.prefixes i.length m) w.bytes .write) := by
  rw [moveToRM_mem_unlocked hl]
  exact ((StopsAs.refl _).andThen _).andThen _

theorem moveFromRM_mem_stops {reg : BitVec 3} {m : MemRef} :
    StopsAs (moveFromRM i w reg (.mem m) s)
      (dataAddrs s (memSeg s i.prefixes m) (effAddr s i.prefixes i.length m) w.bytes .read) := by
  rw [moveFromRM, runMove_unlocked _ hl]
  exact (((StopsAs.refl _).andThen _).andThen _).andThen _

theorem moveToMoffs_stops {m : Moffs} :
    StopsAs (moveToMoffs i w m s) (dataAddrs s (moffsSeg s i.prefixes) (moffsValue m) w.bytes .write) := by
  rw [moveToMoffs_unlocked hl]
  exact ((StopsAs.refl _).andThen _).andThen _

theorem moveFromMoffs_stops {m : Moffs} :
    StopsAs (moveFromMoffs i w m s) (dataAddrs s (moffsSeg s i.prefixes) (moffsValue m) w.bytes .read) := by
  rw [moveFromMoffs, runMove_unlocked _ hl]
  exact (((StopsAs.refl _).andThen _).andThen _).andThen _

theorem moveFromSreg_mem_stops {o : OpSize} {reg : BitVec 3} {k : SReg} {m : MemRef} (hr : i.prefixes.r = false)
    (hk : sregOfField reg = some k) :
    StopsAs (moveFromSreg i o reg (.mem m) s)
      (dataAddrs s (memSeg s i.prefixes m) (effAddr s i.prefixes i.length m) (sregMemBytes s o) .write) := by
  rw [moveFromSreg_mem_unlocked hl hr hk]
  exact ((StopsAs.refl _).andThen _).andThen _

theorem moveToSreg_mem_stops {o : OpSize} {reg : BitVec 3} {k : SReg} {m : MemRef} (hr : i.prefixes.r = false)
    (hk : sregOfField reg = some k) (hcs : k ≠ .cs) :
    StopsAs (moveToSreg i o reg (.mem m) s)
      (dataAddrs s (memSeg s i.prefixes m) (effAddr s i.prefixes i.length m) (sregMemBytes s o) .read) := by
  rw [moveToSreg_unlocked hl hr hk hcs]
  exact (((StopsAs.refl _).andThen _).andThen _).andThen _

end

/-- Settles O22: each form with a memory operand is a shared move that begins with the access. -/
theorem operandFaultsStopTheMove : Obligations.OperandFaultsStopTheMove := by
  unfold Obligations.OperandFaultsStopTheMove
  intro p reg k m o imm8 imm16 imm32 s hl
  simp only [List.mem_cons, Prod.mk.injEq, List.not_mem_nil, or_false]
  refine ⟨?modrm, ?moffs, fun hr hk => ?sreg⟩
  case modrm =>
    rintro i n kind (⟨rfl, rfl, rfl⟩ | ⟨rfl, rfl, rfl⟩ | ⟨rfl, rfl, rfl⟩ | ⟨rfl, rfl, rfl⟩ | ⟨rfl, rfl, rfl⟩ |
      ⟨rfl, rfl, rfl⟩ | ⟨rfl, rfl, rfl⟩ | ⟨rfl, rfl, rfl⟩ | ⟨rfl, rfl, rfl⟩ | ⟨rfl, rfl, rfl⟩ | hload)
    iterate 10
      change StopsAs _ _
      apply moveToRM_mem_stops
      exact hl
    obtain ⟨rfl, rfl, rfl⟩ | ⟨rfl, rfl, rfl⟩ | ⟨rfl, rfl, rfl⟩ | ⟨rfl, rfl, rfl⟩ | ⟨rfl, rfl, rfl⟩ := hload <;>
    · change StopsAs _ _
      apply moveFromRM_mem_stops
      exact hl
  case moffs =>
    rintro i n kind (⟨rfl, rfl, rfl⟩ | ⟨rfl, rfl, rfl⟩ | ⟨rfl, rfl, rfl⟩ | ⟨rfl, rfl, rfl⟩ | ⟨rfl, rfl, rfl⟩ | hstore)
    iterate 5
      change StopsAs _ _
      apply moveFromMoffs_stops
      exact hl
    obtain ⟨rfl, rfl, rfl⟩ | ⟨rfl, rfl, rfl⟩ | ⟨rfl, rfl, rfl⟩ | ⟨rfl, rfl, rfl⟩ | ⟨rfl, rfl, rfl⟩ := hstore <;>
    · change StopsAs _ _
      apply moveToMoffs_stops
      exact hl
  case sreg =>
    rintro i n kind ((⟨rfl, rfl, rfl⟩ | ⟨rfl, rfl, rfl⟩) | ⟨hcs, ⟨rfl, rfl, rfl⟩ | ⟨rfl, rfl, rfl⟩⟩)
    iterate 2
      change StopsAs _ _
      apply moveFromSreg_mem_stops
      · exact hl
      · exact hr
      · exact hk
    iterate 2
      change StopsAs _ _
      apply moveToSreg_mem_stops
      · exact hl
      · exact hr
      · exact hk
      · exact hcs

end Sys2Proof.Machine

/-! PROOF. The checks and the translation of an access of 20_memory.md (O24, O25, O27, O28, O30), effective addresses and segments of
30_encoding.md (O31, O32, O33), and the fetch (O7): one lemma per check, and what `resolve` answers where the checks pass. -/

namespace Sys2Proof.Machine

/-! ## What `resolve` answers (R62, R64, R65, R222) -/

section
variable {s : State} {kind : AccessKind} {user : Bool} {las : List Word}

theorem pageFault?_eq_some {la : Word} {f : Fault} :
    pageFault? s kind user la = some f ↔ ∃ code, s.translate kind user la = .pageFault code ∧ f = .pf code la := by
  unfold pageFault?
  split
  · next code h => simp [h, eq_comm]
  · next a h => simp [h]

theorem physical?_eq_some {la : Word} {a : Nat} :
    physical? s kind user la = some a ↔ ∃ w, s.translate kind user la = .phys w ∧ a = w.toNat := by
  unfold physical?
  split
  · next w h => simp [h, eq_comm]
  · next code h => simp [h]

/-- Where no byte faults, every byte has its physical address, in order (R64). -/
theorem translations_of_no_pageFault (h : las.filterMap (pageFault? s kind user) = []) :
    ∃ ps : List Word, las.map (s.translate kind user) = ps.map .phys := by
  induction las with
  | nil => exact ⟨[], rfl⟩
  | cons la las ih =>
    cases ht : s.translate kind user la with
    | pageFault code => simp [pageFault?_eq_some.mpr ⟨code, ht, rfl⟩] at h
    | phys a =>
      obtain ⟨ps, hps⟩ := ih (by simpa [List.filterMap_cons, pageFault?, ht] using h)
      exact ⟨a :: ps, by simp [ht, hps]⟩

/-- Where every byte has its physical address, there is no page fault, and these are the addresses. -/
theorem filterMap_of_translations {ps : List Word} (h : las.map (s.translate kind user) = ps.map .phys) :
    las.filterMap (pageFault? s kind user) = [] ∧ las.filterMap (physical? s kind user) = ps.map BitVec.toNat := by
  induction las generalizing ps with
  | nil =>
    obtain rfl : ps = [] := by simpa using h.symm
    exact ⟨rfl, rfl⟩
  | cons la las ih =>
    cases ps with
    | nil => simp at h
    | cons a ps =>
      rw [List.map_cons, List.map_cons, List.cons.injEq] at h
      obtain ⟨hnone, hps⟩ := ih h.2
      simp [pageFault?, physical?, h.1, hnone, hps]

/-- Where an exception applies, one of those that apply is the outcome (R222). -/
theorem resolve_of_faults {others : List Fault} (h : others ++ las.filterMap (pageFault? s kind user) ≠ []) :
    ∃ f, resolve s others kind user las = .fault f ∧
      (f ∈ others ∨ ∃ la ∈ las, ∃ code, s.translate kind user la = .pageFault code ∧ f = .pf code la) := by
  obtain ⟨f, hf, hchosen⟩ := chooseFault_isSome (s := s) h
  refine ⟨f, by rw [resolve, hchosen, guardFault_some], (List.mem_append.mp hf).imp_right fun hpf => ?_⟩
  obtain ⟨la, hla, hpf⟩ := List.mem_filterMap.mp hpf
  exact ⟨la, hla, pageFault?_eq_some.mp hpf⟩

section
variable {ps : List Word} (h : las.map (s.translate kind user) = ps.map .phys)
include h

/-- An access to a device is refused (R65). -/
theorem resolve_of_device (hdev : ∃ a ∈ ps, inRegions s.devices a.toNat = true) :
    resolve s [] kind user las = .refused .deviceAccess := by
  obtain ⟨hnone, hps⟩ := filterMap_of_translations h
  have hany : (ps.map BitVec.toNat).any (inRegions s.devices) = true := by simpa using hdev
  simp [resolve, hnone, hps, hany, -List.any_map]

/-- Where no byte belongs to a device, the access has the translated addresses (R64). -/
theorem resolve_of_translations (hdev : ∀ a ∈ ps, inRegions s.devices a.toNat = false) :
    resolve s [] kind user las = .next (ps.map BitVec.toNat) := by
  obtain ⟨hnone, hps⟩ := filterMap_of_translations h
  have hany : (ps.map BitVec.toNat).any (inRegions s.devices) = false := by simpa using hdev
  simp [resolve, hnone, hps, hany, -List.any_map]

end

end

/-! ## The checks of an access (R52, R53, R56, R57, R59) -/

section
variable {s : State} {k : SReg} {off : Word} {n : Nat} {kind : AccessKind}

/-- A segment fault is the outcome of the access (R52). -/
theorem dataAddrs_of_segFault {f : Fault} (h : segFault s k off n kind = some f) : dataAddrs s k off n kind = .fault f := by
  simp [dataAddrs, h]

/-- Where the segment and canonical checks pass, the access is resolved, with the alignment check (R52). -/
theorem dataAddrs_of_checks (hseg : segFault s k off n kind = none)
    (hcanon : canonicalFault s k (byteAddrs s.wideLinear (linearAddr s k off) n) = none) :
    dataAddrs s k off n kind =
      resolve s (alignFaults s (linearAddr s k off) n) kind (decide (s.cpl = 3#2))
        (byteAddrs s.wideLinear (linearAddr s k off) n) := by
  simp only [dataAddrs, hseg, hcanon, guardFault_none]
  rfl

theorem alignFaults_eq_nil {la : Word} (h : s.acOn = false ∨ s.cpl ≠ 3#2 ∨ s.mode = .real ∨ la.toNat % n = 0) :
    alignFaults s la n = [] := by
  refine if_neg ?_
  rintro ⟨hreal, hac, hcpl, hunaligned⟩
  simp [hreal, hac, hcpl, hunaligned] at h

/-- The limit test as conditions on the offset (R53 (d)). -/
theorem within_iff {r : SegReg} :
    r.within off n = true ↔
      (r.attr.expandDown = false ∧ off.toNat + n ≤ r.limit.toNat + 1) ∨
        (r.attr.expandDown = true ∧ r.limit.toNat < off.toNat ∧
          off.toNat + n ≤ (if r.attr.db = true then 2 ^ 32 else 2 ^ 16)) := by
  have hbound : (if r.attr.db then 0xFFFFFFFF else 0xFFFF) + 1 = if r.attr.db = true then 2 ^ 32 else 2 ^ 16 := by
    split <;> rfl
  cases h : r.attr.expandDown <;> simp [SegReg.within, h, hbound]

/-- The segment checks of `Prot` and `Compat` in their order (R53). -/
theorem segFault_of_protected (hm : s.mode = .prot ∨ s.mode = .compat) :
    segFault s k off n kind =
      if k ≠ .ss ∧ k ≠ .cs ∧ (s.sreg k).usable = false then some (.gp .zero)
      else if kind = .write ∧ (s.sreg k).attr.writable = false then some (.gp .zero)
      else if kind = .read ∧ (s.sreg k).attr.executeOnly = true then some (.gp .zero)
      else if (s.sreg k).within off n then none
      else some (s.addressFault k) := by
  obtain hm | hm := hm <;> simp only [segFault, hm]

/-- Outside `Long64` only the limit is left to test for a register that passes the other checks (R53, R57). -/
theorem segFault_of_limit (hm : s.mode ≠ .long64)
    (hchecks : s.mode = .prot ∨ s.mode = .compat →
      (k = .ss ∨ k = .cs ∨ (s.sreg k).usable = true) ∧
      (kind = .write → (s.sreg k).attr.writable = true) ∧ (kind = .read → (s.sreg k).attr.executeOnly = false)) :
    segFault s k off n kind = if (s.sreg k).within off n then none else some (s.addressFault k) := by
  by_cases hprot : s.mode = .prot ∨ s.mode = .compat
  · obtain ⟨husable, hwrite, hread⟩ := hchecks hprot
    rw [segFault_of_protected hprot, if_neg (by grind), if_neg (by grind), if_neg (by grind)]
  · cases hmode : s.mode <;> simp_all [segFault]

end

/-- Settles O27: each of the three checks is `#GP(0)`, and so are those before it. -/
theorem segmentChecksOfProtAndCompat : Obligations.SegmentChecksOfProtAndCompat := by
  unfold Obligations.SegmentChecksOfProtAndCompat
  intro s k off n hm
  refine ⟨fun kind hss hcs hu => ?null, fun hw => ?notWritable, fun hcode hr => ?notReadable⟩
  case null => exact dataAddrs_of_segFault (by rw [segFault_of_protected hm, if_pos ⟨hss, hcs, hu⟩])
  case notWritable =>
    have hattr : (s.sreg k).attr.writable = false := by
      obtain hcode | hw := hw
      · simp only [SegAttr.writable, SegAttr.isCode, hcode, Bool.not_true, Bool.false_and]
      · simp only [SegAttr.writable, hw, Bool.and_false]
    refine dataAddrs_of_segFault ?_
    rw [segFault_of_protected hm, if_pos (c := _ = _ ∧ _) ⟨rfl, hattr⟩, ite_self]
  case notReadable =>
    have hattr : (s.sreg k).attr.executeOnly = true := by
      simp only [SegAttr.executeOnly, SegAttr.isCode, hcode, hr, Bool.not_false, Bool.and_self]
    refine dataAddrs_of_segFault ?_
    rw [segFault_of_protected hm, if_neg (c := _ = AccessKind.write ∧ _) (by simp),
      if_pos (c := _ = AccessKind.read ∧ _) ⟨rfl, hattr⟩, ite_self]

/-- Settles O28: the limit test is the only one left, and it fails. -/
theorem limitViolationFaults : Obligations.LimitViolationFaults := by
  unfold Obligations.LimitViolationFaults
  intro s k off n kind hm hchecks hlimit
  have hout : (s.sreg k).within off n = false := by
    rw [← Bool.not_eq_true, within_iff]
    grind
  refine dataAddrs_of_segFault ?_
  rw [segFault_of_limit hm hchecks, hout]
  rfl

/-- Settles O25: the page faults decide, and without one the translated addresses do. -/
theorem translationDecidesTheAccess : Obligations.TranslationDecidesTheAccess := by
  unfold Obligations.TranslationDecidesTheAccess
  intro s k off n kind hseg hcanon halign
  rw [dataAddrs_of_checks hseg hcanon, alignFaults_eq_nil halign]
  by_cases hpf : (byteAddrs s.wideLinear (linearAddr s k off) n).filterMap
      (pageFault? s kind (decide (s.cpl = 3#2))) = []
  · obtain ⟨ps, hps⟩ := translations_of_no_pageFault hpf
    have hlen : ps.length = n := by simpa using (congrArg List.length hps).symm
    exact .inr ⟨ps, hlen, hps, resolve_of_device hps, resolve_of_translations hps⟩
  · obtain ⟨f, hf, hmem | ⟨la, hla, code, ht, rfl⟩⟩ := resolve_of_faults (others := []) hpf
    · cases hmem
    · exact .inl ⟨la, hla, code, ht, hf⟩

/-- Settles O30: `#AC(0)` is one of the exceptions that apply, the others are page faults. -/
theorem unalignedAccessFaults : Obligations.UnalignedAccessFaults := by
  unfold Obligations.UnalignedAccessFaults
  intro s k off n kind hm hac hcpl hunaligned hseg hcanon
  have halign : alignFaults s (linearAddr s k off) n = [.ac] := if_pos ⟨hm, hac, hcpl, hunaligned⟩
  rw [dataAddrs_of_checks hseg hcanon, halign]
  obtain ⟨f, hf, hmem | ⟨la, -, code, ht, rfl⟩⟩ := resolve_of_faults (s := s) (kind := kind)
    (user := decide (s.cpl = 3#2)) (las := byteAddrs s.wideLinear (linearAddr s k off) n) (others := [.ac]) (by simp)
  · obtain rfl := List.mem_singleton.mp hmem
    exact .inl hf
  · have hpaging : s.pagingOn = true := by
      by_contra hoff
      rw [translate_identity kind _ la (.inr (by simpa using hoff))] at ht
      cases ht
    exact .inr ⟨hpaging, code, la, hf⟩

/-- The linear addresses of the bytes of an access as numbers (R51, R54). -/
theorem byteAddrs_toNat (s : State) (k : SReg) (off : Word) (n : Nat) :
    (byteAddrs s.wideLinear (linearAddr s k off) n).map BitVec.toNat = (List.range n).map fun j =>
      if s.mode = .long64 then (linearAddr s k off + BitVec.ofNat 64 j).toNat
      else ((s.sreg k).base.toNat + off.toNat + j) % 2 ^ 32 := by
  rw [byteAddrs, List.map_map]
  refine List.map_congr_left fun j _ => ?_
  by_cases hm : s.mode = .long64
  · have hwide : s.wideLinear = true := by simp [State.wideLinear, hm]
    simp [hm, hwide]
  · have hnarrow : s.wideLinear = false := by simp [State.wideLinear, hm]
    rw [if_neg hm, Function.comp_apply, hnarrow, wrapLinear_narrow_toNat, linearAddr_of_ne_long64 k off hm,
      BitVec.toNat_add, wrapLinear_narrow_toNat, BitVec.toNat_add, BitVec.toNat_ofNat]
    omega

/-- Settles O24: without a fault the addresses translate to themselves. -/
theorem uncheckedAccessResolves : Obligations.UncheckedAccessResolves := by
  unfold Obligations.UncheckedAccessResolves
  intro s k off n kind as hid hchecks hlimit hcanon halign has
  have hseg : segFault s k off n kind = none := by
    by_cases hm : s.mode = .long64
    · exact segFault_long64 k off n kind hm
    · rw [segFault_of_limit hm hchecks, within_iff.mpr (hlimit hm)]
      rfl
  have hcan : canonicalFault s k (byteAddrs s.wideLinear (linearAddr s k off) n) = none := by
    refine if_neg ?_
    rintro ⟨hm, hfalse⟩
    have hwide : s.wideLinear = true := by simp [State.wideLinear, hm]
    obtain ⟨la, hla, hnot⟩ := List.all_eq_false.mp hfalse
    obtain ⟨j, hj, rfl⟩ := List.mem_map.mp hla
    rw [hwide, wrapLinear_wide] at hnot
    exact hnot (hcanon hm j (List.mem_range.mp hj))
  have htrans : (byteAddrs s.wideLinear (linearAddr s k off) n).map (s.translate kind (decide (s.cpl = 3#2))) =
      (byteAddrs s.wideLinear (linearAddr s k off) n).map .phys :=
    List.map_congr_left fun la _ => translate_identity kind _ la hid
  rw [← byteAddrs_toNat] at has
  rw [dataAddrs_of_checks hseg hcan, alignFaults_eq_nil halign, has]
  refine ⟨fun h => resolve_of_translations htrans ?_, fun h => resolve_of_device htrans ?_⟩
  · simpa using h
  · simpa using h

/-! ## Effective addresses (R89 to R94) -/

theorem truncAd_a16_toNat (a : Word) : (truncAd .a16 a).toNat = a.toNat % 2 ^ 16 := by
  simp only [truncAd, BitVec.toNat_setWidth, BitVec.extractLsb'_toNat, Nat.shiftRight_zero]
  omega

/-- An effective address is a sum truncated to 16 bits or to the address size (R94). -/
theorem effAddr_eq_truncAd (s : State) (p : Prefixes) (len : Nat) (m : MemRef) :
    ∃ v, effAddr s p len m = truncAd .a16 v ∨ effAddr s p len m = truncAd (adSize s.ctx p) v := by
  cases m with
  | based16 b d => exact ⟨_, .inl rfl⟩
  | abs16 d => exact ⟨_, .inl rfl⟩
  | based rm d => exact ⟨_, .inr rfl⟩
  | disp32 d =>
    simp only [effAddr]
    split
    · exact ⟨_, .inr rfl⟩
    · exact ⟨_, .inr rfl⟩
  | sib sc i b d => exact ⟨_, .inr rfl⟩
  | sibAbs sc i d => exact ⟨_, .inr rfl⟩

/-- A displacement as a 64-bit number: its signed value modulo `2^64` (R92). -/
theorem dispValue_toNat {w : Nat} (d : Disp w) : ((dispValue d).toNat : Int) = dispInt d % 2 ^ 64 := by
  have hsigned : ∀ {n : Nat} (v : BitVec n), ((v.signExtend 64).toNat : Int) = v.toInt % 2 ^ 64 := fun v => by
    rw [BitVec.signExtend, BitVec.toNat_ofInt]
    omega
  cases d with
  | none => rfl
  | short d => exact hsigned d
  | full d => exact hsigned d

theorem regRead_w16_toNat (s : State) (i : BitVec 4) (rex : Bool) : (regRead s i .w16 rex).toNat = lowWord s i := by
  simp only [regRead, lowWord, BitVec.toNat_setWidth, BitVec.extractLsb'_toNat, Nat.shiftRight_zero]
  omega

/-- An address of the 16-bit table, where the registers of its row add up to `n` (R89, R94). -/
theorem effAddr_based16_toNat {s : State} (p : Prefixes) (len : Nat) {b : Base16} {n : Nat} (d : Disp 16)
    (hn : (base16Value s b).toNat = n) :
    ((effAddr s p len (.based16 b d)).toNat : Int) = ((n : Int) + dispInt d) % 2 ^ 16 := by
  have hd := dispValue_toNat d
  simp only [effAddr, truncAd_a16_toNat, BitVec.toNat_add, hn]
  omega

/-- Settles O31: the sum of two registers of 16 bits does not overflow before it is truncated. -/
theorem effectiveAddressIsTruncated : Obligations.EffectiveAddressIsTruncated := by
  unfold Obligations.EffectiveAddressIsTruncated
  intro s p len
  refine ⟨fun m ha => ?bound16, fun m ha => ?bound32, fun b n hb d => effAddr_based16_toNat p len d ?row, fun d => ?abs16⟩
  case bound16 =>
    obtain ⟨v, h | h⟩ := effAddr_eq_truncAd s p len m
    · rw [h, truncAd_a16_toNat]
      exact Nat.mod_lt _ (by decide)
    · rw [h, ha, truncAd_a16_toNat]
      exact Nat.mod_lt _ (by decide)
  case bound32 =>
    obtain ⟨v, h | h⟩ := effAddr_eq_truncAd s p len m
    · rw [h, truncAd_a16_toNat]
      omega
    · rw [h, ha, truncAd_a32_toNat]
      exact Nat.mod_lt _ (by decide)
  case row =>
    have hword : ∀ i, lowWord s i < 2 ^ 16 := fun i => Nat.mod_lt _ (by decide)
    have hsum : ∀ i j, (regRead s i .w16 true + regRead s j .w16 true).toNat = lowWord s i + lowWord s j := fun i j => by
      have hi := hword i
      have hj := hword j
      rw [BitVec.toNat_add, regRead_w16_toNat, regRead_w16_toNat]
      omega
    simp only [List.mem_cons, Prod.mk.injEq, List.not_mem_nil, or_false] at hb
    obtain ⟨rfl, rfl⟩ | ⟨rfl, rfl⟩ | ⟨rfl, rfl⟩ | ⟨rfl, rfl⟩ | ⟨rfl, rfl⟩ | ⟨rfl, rfl⟩ | ⟨rfl, rfl⟩ | ⟨rfl, rfl⟩ := hb
    iterate 4 exact hsum _ _
    iterate 4 exact regRead_w16_toNat s _ true
  case abs16 =>
    have hd := d.isLt
    simp only [effAddr, truncAd_a16_toNat, BitVec.toNat_setWidth]
    omega

/-- With a 32- or 64-bit address size, `M` its number of addresses: registers and addresses are taken modulo `M` (R94). -/
theorem adSize_modulus {a : AdSize} {M : Nat} (h : (a = .a32 ∧ M = 2 ^ 32) ∨ (a = .a64 ∧ M = 2 ^ 64)) :
    (∀ v, (truncAd a v).toNat = v.toNat % M) ∧ (∀ s i, (addrReg s a i).toNat = (s.getX i).toNat % M) ∧ M ∣ 2 ^ 64 := by
  obtain ⟨rfl, rfl⟩ | ⟨rfl, rfl⟩ := h
  · refine ⟨truncAd_a32_toNat, fun s i => ?_, by decide⟩
    simp only [addrReg, adWidth, regRead, BitVec.toNat_setWidth, BitVec.extractLsb'_toNat, Nat.shiftRight_zero]
    omega
  · exact ⟨fun v => (Nat.mod_eq_of_lt v.isLt).symm, fun s i => (Nat.mod_eq_of_lt (s.getX i).isLt).symm, dvd_rfl⟩

/-- REX.X is 0 and the index field is 4 exactly where the index register is numbered 4 (R91). -/
theorem indexNum_eq_four (p : Prefixes) (i : BitVec 3) : indexNum p i = 4#4 ↔ p.x = false ∧ i = 4#3 := by
  have hbits : ∀ (x : Bool) (i : BitVec 3), BitVec.ofBool x ++ i = 4#4 ↔ x = false ∧ i = 4#3 := by decide
  exact hbits p.x i

/-- A 64-bit sum of three terms given by integers modulo `2^64`, reduced modulo a divisor `M` of `2^64`. -/
theorem sum_toNat_emod {M : Nat} {a b c : Word} {x y z : Int} (hM : M ∣ 2 ^ 64) (ha : (a.toNat : Int) = x % 2 ^ 64)
    (hb : (b.toNat : Int) = y % 2 ^ 64) (hc : (c.toNat : Int) = z % 2 ^ 64) :
    (((a + b + c).toNat % M : Nat) : Int) = (x + y + z) % M := by
  have hM' : (M : Int) ∣ 2 ^ 64 := by exact_mod_cast hM
  have hsum : ((a + b + c).toNat : Int) = (x + y + z) % 2 ^ 64 := by
    rw [BitVec.toNat_add, BitVec.toNat_add]
    omega
  rw [Int.natCast_mod, hsum, Int.emod_emod_of_dvd _ hM']

theorem effAddr_disp32_of_ne_long64 {s : State} (p : Prefixes) (len : Nat) (d : BitVec 32) (hm : s.mode ≠ .long64) :
    effAddr s p len (.disp32 d) = truncAd (adSize s.ctx p) (d.signExtend 64) := by
  cases h : s.mode with
  | long64 => exact absurd h hm
  | _ => simp only [effAddr, h]

/-- Settles O32: each address is a sum of three terms, some of them 0. -/
theorem addressesOf32And64Bits : Obligations.AddressesOf32And64Bits := by
  unfold Obligations.AddressesOf32And64Bits
  intro s p len M reg index hM hreg hindex
  obtain ⟨htrunc, haddr, hdvd⟩ := adSize_modulus hM
  have hbase : ∀ i, ((addrReg s (adSize s.ctx p) i).toNat : Int) = reg i % 2 ^ 64 := fun i => by
    have hlt := (addrReg s (adSize s.ctx p) i).isLt
    rw [hreg, ← haddr]
    omega
  have hterm : ∀ sc i, ((indexTerm s p (adSize s.ctx p) sc i).toNat : Int) = index sc i % 2 ^ 64 := fun sc i => by
    rw [hindex, indexTerm]
    by_cases hnone : indexNum p i = 4#4
    · rw [if_pos hnone, if_pos ((indexNum_eq_four p i).mp hnone)]
      rfl
    · rw [if_neg hnone, if_neg (mt (indexNum_eq_four p i).mpr hnone), hreg, BitVec.toNat_shiftLeft, haddr, Nat.shiftLeft_eq]
      push_cast
      rfl
  have hzero : ((0#64).toNat : Int) = 0 % 2 ^ 64 := rfl
  have hdisp : ∀ d : BitVec 32, ((d.signExtend 64 : Word).toNat : Int) = d.toInt % 2 ^ 64 := fun d =>
    dispValue_toNat (Disp.full d)
  refine ⟨fun rm d => ?_, fun sc i b d => ?_, fun sc i d => ?_, fun hm d => ?_⟩
  · have h := sum_toNat_emod hdvd (hbase (rmNum p rm)) (dispValue_toNat d) hzero
    rw [BitVec.add_zero, Int.add_zero, ← htrunc] at h
    exact h
  · have h := sum_toNat_emod hdvd (hbase (rmNum p b)) (hterm sc i) (dispValue_toNat d)
    rw [← htrunc] at h
    exact h
  · have h := sum_toNat_emod hdvd (hterm sc i) (hdisp d) hzero
    rw [BitVec.add_zero, Int.add_zero, ← htrunc] at h
    exact h
  · have h := sum_toNat_emod hdvd (hdisp d) hzero hzero
    rw [BitVec.add_zero, BitVec.add_zero, Int.add_zero, Int.add_zero, ← htrunc] at h
    rw [effAddr_disp32_of_ne_long64 p len d hm]
    exact h

/-! ## Segments (R95) -/

theorem segOf_none {m : Mode} {p : Prefixes} (dflt : SReg) (h : p.seg = none) : segOf m p dflt = dflt := by
  simp only [segOf, h]

theorem segOf_override {m : Mode} {p : Prefixes} {k : SReg} (dflt : SReg) (h : p.seg = some k)
    (hm : m ≠ .long64 ∨ k = .fs ∨ k = .gs) : segOf m p dflt = k := by
  cases m <;> simp_all [segOf]

theorem segOf_ignored {m : Mode} {p : Prefixes} {k : SReg} (dflt : SReg) (h : p.seg = some k) (hm : m = .long64)
    (hfs : k ≠ .fs) (hgs : k ≠ .gs) : segOf m p dflt = dflt := by
  simp [segOf, h, hm, hfs, hgs]

/-- Settles O33: the default of each operand, then the override, then the bytes of the six prefixes. -/
theorem segmentOfAMemoryOperand : Obligations.SegmentOfAMemoryOperand := by
  unfold Obligations.SegmentOfAMemoryOperand
  refine ⟨fun s p h => ?default, fun s p k m h => ⟨fun hm => ?override, fun hm hfs hgs => ?ignored⟩, ?bytes⟩
  case default =>
    have hmem : ∀ m, memSeg s p m = defaultSeg p m := fun m => segOf_none _ h
    refine ⟨fun b d => ?_, fun d => hmem _, fun rm d => hmem _, fun d => hmem _, fun sc i b d => hmem _, fun sc i d => hmem _,
      segOf_none _ h⟩
    rw [hmem]
    cases b <;> rfl
  case override => exact ⟨segOf_override _ h hm, segOf_override _ h hm⟩
  case ignored =>
    refine ⟨?_, segOf_ignored _ h hm hfs hgs⟩
    have hplain : memSeg s { p with seg := none } m = defaultSeg p m := by
      rw [memSeg, segOf_none _ rfl]
      cases m <;> rfl
    rw [hplain]
    exact segOf_ignored _ h hm hfs hgs
  case bytes =>
    simp only [List.mem_cons, Prod.mk.injEq, List.not_mem_nil, or_false]
    rintro b k (⟨rfl, rfl⟩ | ⟨rfl, rfl⟩ | ⟨rfl, rfl⟩ | ⟨rfl, rfl⟩ | ⟨rfl, rfl⟩ | ⟨rfl, rfl⟩) c (rfl | rfl) <;> rfl

/-! ## The fetch (D1, R25, R54) -/

/-- Every byte fetched is the memory at the address of its place (D1). -/
theorem fetchFrom_getElem? {s : State} {i n j : Nat} {b : Byte} (h : (fetchFrom s i n)[j]? = some b) :
    ∃ a, fetchAddr s (i + j) = some a ∧ b = s.mem.read a := by
  induction n generalizing i j with
  | zero => simp [fetchFrom] at h
  | succ n ih =>
    rw [fetchFrom] at h
    split at h
    · next a ha =>
      cases j with
      | zero => exact ⟨a, ha, by simpa using h.symm⟩
      | succ j =>
        obtain ⟨a', ha', hb⟩ := ih h
        exact ⟨a', by rwa [Nat.add_right_comm] at ha', hb⟩
    · simp at h

/-- Bytes are fetched as far as every one has an address. -/
theorem le_fetchFrom_length {s : State} {i n m : Nat} (hnm : n ≤ m) (h : ∀ j < n, ∃ a, fetchAddr s (i + j) = some a) :
    n ≤ (fetchFrom s i m).length := by
  induction n generalizing i m with
  | zero => exact Nat.zero_le _
  | succ n ih =>
    obtain ⟨m, rfl⟩ : ∃ m', m = m' + 1 := ⟨m - 1, by omega⟩
    obtain ⟨a, ha⟩ := h 0 (Nat.succ_pos n)
    have hrest : ∀ j < n, ∃ a, fetchAddr s (i + 1 + j) = some a := fun j hj => by
      rw [Nat.add_right_comm, Nat.add_assoc]
      exact h (j + 1) (by omega)
    rw [Nat.add_zero] at ha
    rw [fetchFrom, ha]
    exact Nat.succ_le_succ (ih (by omega) hrest)

theorem fetchOffset_long64 {s : State} (j : Nat) (hm : s.mode = .long64) :
    fetchOffset s j = s.rip + BitVec.ofNat 64 j := by
  simp only [fetchOffset, hm]

theorem fetchOffset_of_ne_long64 {s : State} (j : Nat) (hm : s.mode ≠ .long64) :
    fetchOffset s j = BitVec.ofNat 64 (s.rip.toNat % 2 ^ 32 + j) := by
  have hoff : fetchOffset s j = (s.rip.extractLsb' 0 32).setWidth 64 + BitVec.ofNat 64 j := by
    cases h : s.mode with
    | long64 => exact absurd h hm
    | _ => simp only [fetchOffset, h]
  rw [hoff]
  refine BitVec.eq_of_toNat_eq ?_
  simp only [BitVec.toNat_add, BitVec.toNat_setWidth, BitVec.extractLsb'_toNat, BitVec.toNat_ofNat, Nat.shiftRight_zero]
  omega

/-- The linear address of byte `j` of the instruction at `pc` (R25, R54). -/
theorem fetch_linearAddr (s : State) (j : Nat) :
    linearAddr s .cs (fetchOffset s j) = if s.mode = .long64 then s.rip + BitVec.ofNat 64 j
      else BitVec.ofNat 64 ((s.seg.cs.base.toNat + s.rip.toNat % 2 ^ 32 + j) % 2 ^ 32) := by
  by_cases hm : s.mode = .long64
  · rw [if_pos hm, linearAddr_of_long64 _ _ hm, if_neg (by decide), fetchOffset_long64 j hm]
  · rw [if_neg hm, linearAddr_of_ne_long64 _ _ hm, fetchOffset_of_ne_long64 j hm]
    refine BitVec.eq_of_toNat_eq ?_
    rw [wrapLinear_narrow_toNat, BitVec.toNat_add, BitVec.toNat_ofNat, BitVec.toNat_ofNat]
    change (s.seg.cs.base.toNat + _) % _ % _ = _
    omega

/-- Everything that gives byte `j` an address: it is reached, translated, in no device and in the program. -/
theorem fetchAddr_eq_some_iff {s : State} {j a : Nat} :
    fetchAddr s j = some a ↔ fetchable s (fetchOffset s j) = true ∧
      (∃ w, s.translate .read (decide (s.cpl = 3#2)) (linearAddr s .cs (fetchOffset s j)) = .phys w ∧ a = w.toNat) ∧
      inRegions s.devices a = false ∧ inRegions s.program a = true := by
  simp only [fetchAddr, fetchPhys, Option.filter_eq_some_iff]
  split
  · next hf =>
    rw [Option.filter_eq_some_iff, physical?_eq_some]
    simp only [hf, true_and, Bool.not_eq_true', and_assoc]
    rfl
  · next hf => simp [hf]

/-- Settles O7. -/
theorem stepRunsTheDecodedInstruction : Obligations.StepRunsTheDecodedInstruction := by
  unfold Obligations.StepRunsTheDecodedInstruction
  refine ⟨fun s i rest h => by simp only [step, h], fun s la hla => ?_⟩
  have hplace : ∀ j, linearAddr s .cs (fetchOffset s j) = la j := fun j => by rw [fetch_linearAddr, hla]
  refine ⟨fun j b hb => ?bytes, fun n hn h => ?reached⟩
  case bytes =>
    obtain ⟨a, ha, rfl⟩ := fetchFrom_getElem? hb
    rw [Nat.zero_add] at ha
    obtain ⟨-, ⟨w, hw, rfl⟩, -, -⟩ := fetchAddr_eq_some_iff.mp ha
    exact ⟨w, hplace j ▸ hw, rfl⟩
  case reached =>
    refine le_fetchFrom_length hn fun j hj => ?_
    obtain ⟨⟨w, hw, hdev, hprog⟩, hcanon, hlimit⟩ := h j hj
    rw [Nat.zero_add]
    refine ⟨w.toNat, fetchAddr_eq_some_iff.mpr ⟨?_, ⟨w, (hplace j).symm ▸ hw, rfl⟩, hdev, hprog⟩⟩
    by_cases hm : s.mode = .long64
    · have hcanon := hcanon hm
      rw [hla, if_pos hm, ← fetchOffset_long64 j hm] at hcanon
      simpa only [fetchable, hm] using hcanon
    · have hlimit := hlimit hm
      rw [← fetchOffset_of_ne_long64 j hm] at hlimit
      cases hmode : s.mode with
      | long64 => exact absurd hmode hm
      | _ => simpa only [fetchable, hmode] using hlimit

end Sys2Proof.Machine

/-! PROOF. Loads of a segment register of 41_mov_sreg.md (O38 to O43, O47, O50): NULL selectors, the descriptor table, the accessed
bit and the load itself. -/

namespace Sys2Proof.Machine

/-! ## Segment register numbers and REX.R (R144) -/

theorem runSreg_rexR {i : Instr} {s : State} (move : Res State) (hl : i.prefixes.lock = false) (hr : i.prefixes.r = true) :
    runSreg i s move = .refused .rexROnSreg := by
  simp [runSreg, encodingFault_unlocked hl, hr]

/-- A number that names no segment register is `#UD` for 8C (R144). -/
theorem moveFromSreg_ud {i : Instr} {o : OpSize} {reg : BitVec 3} {rm : RM} {s : State} (hl : i.prefixes.lock = false)
    (hr : i.prefixes.r = false) (hreg : reg = 6#3 ∨ reg = 7#3) : moveFromSreg i o reg rm s = .fault .ud := by
  obtain rfl | rfl := hreg <;> simp [moveFromSreg, runSreg, encodingFault_unlocked hl, hr, sregOfField]

/-- Settles O50. -/
theorem noSuchSegmentRegister : Obligations.NoSuchSegmentRegister := by
  unfold Obligations.NoSuchSegmentRegister
  refine fun p reg rm s hl => ⟨fun hr hreg => ?ud, fun hr => ?refused⟩
  case ud =>
    exact ⟨moveFromSreg_ud hl hr hreg, moveFromSreg_ud hl hr hreg, moveToSreg_ud hl hr (.inr hreg),
      moveToSreg_ud hl hr (.inr hreg)⟩
  case refused => exact ⟨runSreg_rexR _ hl hr, runSreg_rexR _ hl hr, runSreg_rexR _ hl hr, runSreg_rexR _ hl hr⟩

/-! ## NULL selectors (R29, R150) -/

theorem isNull_of_lt {sel : BitVec 16} (h : sel.toNat < 4) : isNull sel = true := by
  simp only [isNull, beq_iff_eq, ← BitVec.toNat_inj, BitVec.extractLsb'_toNat, Nat.shiftRight_eq_div_pow,
    BitVec.toNat_ofNat]
  omega

/-- A NULL selector in the modes that check a load (R150). -/
theorem loadSeg_of_null {s : State} {k : SReg} {sel : BitVec 16} (hm : checkedMode s.mode) (hsel : sel.toNat < 4) :
    loadSeg s k sel = if nullAllowed s k sel then .next (loadNull s k sel) else .fault (.gp .zero) := by
  obtain hm | hm | hm := hm <;> simp only [loadSeg, hm, isNull_of_lt hsel, if_true, raise_eq]

theorem nullAllowed_iff {s : State} {k : SReg} {sel : BitVec 16} :
    nullAllowed s k sel = true ↔ (k = .ss → s.mode = .long64 ∧ s.cpl ≠ 3#2 ∧ sel.extractLsb' 0 2 = s.cpl) := by
  simp only [nullAllowed, selRpl, Bool.or_eq_true, Bool.and_eq_true, bne_iff_ne, beq_iff_eq, and_assoc]
  tauto

/-- A NULL load writes the one segment register, after free values have been used or not (R150). -/
theorem loadNull_eq_setSreg (s : State) (k : SReg) (sel : BitVec 16) :
    ∃ u r, loadNull s k sel = u.setSreg k r ∧ RegsKept s u ∧ (∀ j, u.sreg j = s.sreg j) ∧ SystemAndCsKept s u ∧
      u.rip = s.rip := by
  have hs := SystemAndCsKept.refl s
  unfold loadNull
  split
  · exact ⟨s, _, rfl, fun _ => rfl, fun _ => rfl, hs, rfl⟩
  · exact ⟨s, _, rfl, fun _ => rfl, fun _ => rfl, hs, rfl⟩
  · exact ⟨_, _, rfl, fun _ => rfl, fun j => by simp only [sreg_draw], hs.after_draw.after_draw.after_draw, rfl⟩

theorem sregMove_loadNull (i : Instr) {s : State} {k : SReg} (sel : BitVec 16) (hcs : k ≠ .cs) :
    SregMove i k s (completeLoad s.ssInhibit k (loadNull s k sel) i.length) := by
  obtain ⟨u, r, h, hregs, hsregs, hkept, hrip⟩ := loadNull_eq_setSreg s k sel
  exact h ▸ sregMove_setSreg r hcs hregs hsregs hkept hrip

/-- The hidden part after a NULL load where `NULL_LOAD_BASE` determines it (R150, D6). -/
theorem sreg_loadNull_hidden (s : State) (k : SReg) (sel : BitVec 16) :
    (s.impl.nullLoadBase = .zero → ((loadNull s k sel).sreg k).base = 0#64 ∧ ((loadNull s k sel).sreg k).limit = 0#32) ∧
    (s.impl.nullLoadBase = .unchanged → ((loadNull s k sel).sreg k).base = (s.sreg k).base ∧
      ((loadNull s k sel).sreg k).limit = (s.sreg k).limit ∧ ((loadNull s k sel).sreg k).attr = (s.sreg k).attr) := by
  refine ⟨fun h => ?_, fun h => ?_⟩ <;> simp [loadNull, h]

/-- Settles O38: the selector is allowed, and the load writes the one register. -/
theorem nullSelectorLoads : Obligations.NullSelectorLoads := by
  unfold Obligations.NullSelectorLoads
  intro p reg rm k sel s hl hr hk hcs hm hsel hallowed i o (hi : IsSregLoad p reg rm s i o) hread
  rw [hi.exec_of_readSel hl hr hk hcs hread, loadSeg_of_null hm hsel, if_pos (nullAllowed_iff.mpr hallowed)]
  obtain ⟨hzero, hunchanged⟩ := sreg_loadNull_hidden s k sel
  obtain ⟨hselKept, husable⟩ := sreg_loadNull_same s k sel
  refine ⟨_, rfl, ?_⟩
  rw [completeLoad_sreg]
  exact ⟨hselKept, husable, hzero, hunchanged, fun a => by rw [completeLoad_mem, loadNull_mem], sregMove_loadNull i sel hcs⟩

/-- Settles O39: a NULL selector is not allowed in SS. -/
theorem nullStackSelectorFaults : Obligations.NullStackSelectorFaults := by
  unfold Obligations.NullStackSelectorFaults
  intro p rm sel s hl hr hsel hmode
  have hm : checkedMode s.mode := by
    obtain hm | hm | ⟨hm, -⟩ := hmode
    · exact .inl hm
    · exact .inr (.inl hm)
    · exact .inr (.inr hm)
  have hnot : ¬ nullAllowed s .ss sel = true := by
    rw [nullAllowed_iff]
    intro h
    obtain ⟨hlong, hcpl, hrpl⟩ := h rfl
    simp [hlong, hcpl, hrpl] at hmode
  have hload : loadSeg s .ss sel = .fault (.gp .zero) := by rw [loadSeg_of_null hm hsel, if_neg hnot]
  exact ⟨fun hread => IsSregLoad.exec_of_loadSeg_fault (.inl ⟨rfl, rfl⟩) hl hr rfl (by decide) hread hload,
    fun hread => IsSregLoad.exec_of_loadSeg_fault (.inr ⟨rfl, rfl⟩) hl hr rfl (by decide) hread hload⟩

/-! ## The descriptor table (R28, R51, R63, R151) -/

/-- The offset of the entry: the index times eight (R28). -/
theorem selOffset_eq (sel : BitVec 16) : selOffset sel = sel.toNat / 8 * 8 := by
  have h := sel.isLt
  simp only [selOffset, BitVec.extractLsb'_toNat, Nat.shiftRight_eq_div_pow]
  omega

/-- The linear address of byte `j` of the entry: 64 bits wide in `Long64`, 32 in the other modes (R51, R63). -/
def descByteAddr (s : State) (base : Word) (sel : BitVec 16) (j : Nat) : Word :=
  if s.mode = .long64 then base + BitVec.ofNat 64 (sel.toNat / 8 * 8) + BitVec.ofNat 64 j
  else BitVec.ofNat 64 ((base.toNat + sel.toNat / 8 * 8 + j) % 2 ^ 32)

theorem descAddrs_eq_map (s : State) (sel : BitVec 16) :
    descAddrs s sel = (List.range 8).map (descByteAddr s (tableBase s sel) sel) := by
  rw [descAddrs, selOffset_eq, byteAddrs]
  refine List.map_congr_left fun j _ => ?_
  by_cases hm : s.mode = .long64
  · have hwide : s.wideLinear = true := by simp [State.wideLinear, hm]
    rw [hwide, wrapLinear_wide, descByteAddr, if_pos hm]
  · have hnarrow : s.wideLinear = false := by simp [State.wideLinear, hm]
    refine BitVec.eq_of_toNat_eq ?_
    rw [hnarrow, wrapLinear_narrow_toNat, descByteAddr, if_neg hm, BitVec.toNat_add, BitVec.toNat_add]
    simp only [BitVec.toNat_ofNat]
    omega

/-- Byte `j` of a value read from memory, the first the lowest (R50). -/
theorem leValue_byte {bs : List Byte} {j : Nat} {b : Byte} (hj : j < 8) (h : bs[j]? = some b) :
    (leValue bs).extractLsb' (8 * j) 8 = b := by
  induction bs generalizing j with
  | nil => simp at h
  | cons c bs ih =>
    cases j with
    | zero =>
      obtain rfl : c = b := by simpa using h
      rw [Nat.mul_zero, leValue_cons_low (w := 0) _ _ (by decide), BitVec.zero_width_append]
      rfl
    | succ j =>
      rw [← ih (j := j) (by omega) h]
      refine BitVec.eq_of_getLsbD_eq fun b hb => ?_
      have hin : 8 * (j + 1) + b < 64 := by omega
      have hsub : 8 * (j + 1) + b - 8 = 8 * j + b := by omega
      have hge : ¬ 8 * (j + 1) + b < 8 := by omega
      simp [leValue, hb, hin, hge, hsub, BitVec.getLsbD_of_ge c _ (Nat.not_lt.mp hge), -BitVec.getLsbD_eq_getElem]

/-- A failed test before the read is the outcome of `LoadSeg` (R148, R151). -/
theorem loadSeg_of_tableFault {s : State} {k : SReg} {sel : BitVec 16} {f : Fault} (hm : checkedMode s.mode)
    (hsel : 4 ≤ sel.toNat) (hf : tableFault s sel = some f) : loadSeg s k sel = .fault f := by
  rw [loadSeg_of_checkedMode hm hsel, loadDescriptor, readDesc, hf, guardFault_some, andThen_fault]

section
variable {s : State} {sel : BitVec 16}

theorem tableLimit_gdt (h : sel.getLsbD 2 = false) : tableLimit s sel = s.gdtr.limit.toNat := by
  simp only [tableLimit, selTI, h, Bool.false_eq_true, if_false]

theorem tableLimit_ldt (h : sel.getLsbD 2 = true) : tableLimit s sel = s.ldtr.limit.toNat := by
  simp only [tableLimit, selTI, h, if_true]

theorem tableBase_gdt (h : sel.getLsbD 2 = false) : tableBase s sel = s.gdtr.base := by
  simp only [tableBase, selTI, h, Bool.false_eq_true, if_false]

theorem tableBase_ldt (h : sel.getLsbD 2 = true) : tableBase s sel = s.ldtr.base := by
  simp only [tableBase, selTI, h, if_true]

end

/-- Everything that makes the tests before the read fail, with the one exception they raise (R151, R213). -/
theorem tableFault_eq (s : State) (sel : BitVec 16) :
    tableFault s sel =
      if (sel.getLsbD 2 = true ∧ s.ldtr.usable = false) ∨ tableLimit s sel < sel.toNat / 8 * 8 + 7 ∨
        (s.mode = .long64 ∧ allCanonical s (descAddrs s sel) = false) then some (.gp (.selector sel)) else none := by
  rw [tableFault, selOffset_eq]
  simp only [selTI]
  grind

/-- Settles O43: each of the three causes fails a test on the selector. -/
theorem tableLimitFaults : Obligations.TableLimitFaults := by
  unfold Obligations.TableLimitFaults
  intro p reg rm k sel s hl hr hk hcs hm hsel hcause
  have hfault : tableFault s sel = some (.gp (.selector sel)) := by
    rw [tableFault_eq, if_pos]
    obtain ⟨hti, hlimit⟩ | ⟨hti, hu | hlimit⟩ | ⟨hlong, j, hj, hc⟩ := hcause
    · exact .inr (.inl (by rwa [tableLimit_gdt hti]))
    · exact .inl ⟨hti, hu⟩
    · exact .inr (.inl (by rwa [tableLimit_ldt hti]))
    · refine .inr (.inr ⟨hlong, allCanonical_eq_false (la := descByteAddr s (tableBase s sel) sel j) ?_ ?_⟩)
      · rw [descAddrs_eq_map]
        exact List.mem_map_of_mem (List.mem_range.mpr hj)
      · rw [descByteAddr, if_pos hlong]
        exact hc
  have hload := loadSeg_of_tableFault (k := k) hm hsel hfault
  exact ⟨fun hread => IsSregLoad.exec_of_loadSeg_fault (.inl ⟨rfl, rfl⟩) hl hr hk hcs hread hload,
    fun hread => IsSregLoad.exec_of_loadSeg_fault (.inr ⟨rfl, rfl⟩) hl hr hk hcs hread hload⟩

/-- The tests on the selector pass (R151). -/
theorem tableFault_eq_none {s : State} {sel : BitVec 16}
    (hgdt : sel.getLsbD 2 = false → sel.toNat / 8 * 8 + 7 ≤ s.gdtr.limit.toNat)
    (hldt : sel.getLsbD 2 = true → s.ldtr.usable = true ∧ sel.toNat / 8 * 8 + 7 ≤ s.ldtr.limit.toNat)
    (hcanon : s.mode = .long64 → ∀ la ∈ descAddrs s sel, canonical s.impl.vaBits la = true) : tableFault s sel = none := by
  have hall : s.mode = .long64 → allCanonical s (descAddrs s sel) = true := fun hm => List.all_eq_true.mpr (hcanon hm)
  rw [tableFault_eq, if_neg]
  cases hti : sel.getLsbD 2 with
  | false =>
    rw [tableLimit_gdt hti]
    grind
  | true =>
    rw [tableLimit_ldt hti]
    grind

/-- The one exception unordered with a page fault of the read counts only where a byte of the entry faults (R222). -/
theorem mem_rplFaults {s : State} {k : SReg} {sel : BitVec 16} {f : Fault} (h : f ∈ rplFaults s k sel) :
    k = .ss ∧ sel.extractLsb' 0 2 ≠ s.cpl ∧ f = .gp (.selector sel) ∧
      ∃ la ∈ descAddrs s sel, ∃ code, s.translate .read false la = .pageFault code := by
  unfold rplFaults at h
  split at h
  · next hcond =>
    obtain ⟨hk, hrpl, hany⟩ := hcond
    obtain ⟨la, hla, hpf⟩ := List.any_eq_true.mp hany
    obtain ⟨g, hg⟩ := Option.isSome_iff_exists.mp hpf
    obtain ⟨code, ht, -⟩ := pageFault?_eq_some.mp hg
    exact ⟨hk, hrpl, List.mem_singleton.mp h, la, hla, code, ht⟩
  · cases h

theorem readDesc_of_tableFault_none {s : State} {k : SReg} {sel : BitVec 16} (h : tableFault s sel = none) :
    readDesc s k sel =
      andThen (resolve s (rplFaults s k sel) .read false (descAddrs s sel)) fun as => .next (s.mem.readAll as) := by
  rw [readDesc, h, guardFault_none]

/-- Settles O41: a page fault or the RPL test is the outcome where a byte faults, else the eight translated bytes are read. -/
theorem descriptorIsReadFromTheTable : Obligations.DescriptorIsReadFromTheTable := by
  unfold Obligations.DescriptorIsReadFromTheTable
  intro s k sel base las hm hgdt hldt hlas hcanon
  have hbase : tableBase s sel = base := by
    cases hti : sel.getLsbD 2 with
    | false => rw [tableBase_gdt hti, (hgdt hti).1]
    | true => rw [tableBase_ldt hti, (hldt hti).1]
  have haddrs : descAddrs s sel = las := by
    rw [hlas, descAddrs_eq_map, hbase]
    rfl
  have htable : tableFault s sel = none := tableFault_eq_none (fun h => (hgdt h).2) (fun h => (hldt h).2) (haddrs ▸ hcanon)
  rw [readDesc_of_tableFault_none htable, haddrs]
  refine ⟨?_, fun hoff la _ => translate_identity _ _ la (.inr hoff)⟩
  by_cases hpf : las.filterMap (pageFault? s .read false) = []
  · obtain ⟨ps, hps⟩ := translations_of_no_pageFault hpf
    have hrpl : rplFaults s k sel = [] := by
      refine List.eq_nil_iff_forall_not_mem.mpr fun f hf => ?_
      obtain ⟨-, -, -, la, hla, code, ht⟩ := mem_rplFaults hf
      exact List.not_mem_nil (hpf ▸ List.mem_filterMap.mpr ⟨la, haddrs ▸ hla, pageFault?_eq_some.mpr ⟨code, ht, rfl⟩⟩)
    rw [hrpl]
    refine .inr ⟨ps, hps, fun hdev => ?_, fun hdev => ?_⟩
    · rw [resolve_of_device hps hdev, andThen_refused]
    · rw [resolve_of_translations hps hdev, andThen_next]
      refine ⟨_, rfl, fun j a hj => ?_⟩
      have hlen : ps.length = 8 := by simpa [hlas] using (congrArg List.length hps).symm
      have hlt : j < 8 := hlen ▸ (List.getElem?_eq_some_iff.mp hj).1
      exact leValue_byte hlt (by simp [hj])
  · obtain ⟨f, hf, hmem | ⟨la, hla, code, ht, rfl⟩⟩ := resolve_of_faults (others := rplFaults s k sel)
      (List.append_ne_nil_of_right_ne_nil _ hpf)
    · obtain ⟨hk, hrpl, rfl, la, hla, code, ht⟩ := mem_rplFaults hmem
      exact .inl ⟨la, haddrs ▸ hla, code, ht, .inr ⟨hk, hrpl, by rw [hf, andThen_fault]⟩⟩
    · exact .inl ⟨la, hla, code, ht, .inl (by rw [hf, andThen_fault])⟩

/-! ## The accessed bit (R63, R155) -/

/-- The one byte that the write of the accessed bit reaches, the sixth of the entry. -/
theorem descAddrs_sixth (s : State) (sel : BitVec 16) :
    ((descAddrs s sel).drop 5 |>.take 1) = [descByteAddr s (tableBase s sel) sel 5] := by
  rw [descAddrs_eq_map]
  rfl

theorem setAccessedBit_unmade {s : State} {sel : BitVec 16} {d : Word} (h : s.impl.setAccessed = false ∨ d.getLsbD 40 = true) :
    setAccessedBit s sel d = .next s := by
  refine if_neg ?_
  rintro ⟨hset, hclear⟩
  obtain h | h := h
  · simp [hset] at h
  · cases hclear.symm.trans h

section
variable {s : State} {sel : BitVec 16} {d : Word}

theorem setAccessedBit_made (hset : s.impl.setAccessed = true) (hclear : d.getLsbD 40 = false) :
    setAccessedBit s sel d =
      andThen (resolve s [] .write false [descByteAddr s (tableBase s sel) sel 5]) fun as =>
        storeAt s as ((d.extractLsb' 40 8 ||| 1#8).setWidth 64) := by
  rw [setAccessedBit, if_pos ⟨hset, hclear⟩, descAddrs_sixth]

/-- After the checks of the descriptor, what stops the write of the accessed bit stops `LoadSeg` (R155). -/
theorem loadSeg_of_descFault_none {k : SReg} (hm : checkedMode s.mode) (hsel : 4 ≤ sel.toNat)
    (hd : readDesc s k sel = .next d) (hf : descFault s k sel d = none) :
    loadSeg s k sel = andThen (setAccessedBit s sel d) fun t => .next (loadFromDesc t k sel d) := by
  rw [loadSeg_of_checkedMode hm hsel, loadDescriptor, hd, andThen_next, hf, guardFault_none]

end

/-- Settles O42: one byte is resolved, and stored where it lies in no device and outside the program. -/
theorem accessedBitIsWritten : Obligations.AccessedBitIsWritten := by
  unfold Obligations.AccessedBitIsWritten
  intro s sel d base la hbase hla
  have hbyte : descByteAddr s (tableBase s sel) sel 5 = la := by
    rw [hla, hbase, descByteAddr, tableBase, selTI, BitVec.add_assoc, BitVec.ofNat_add]
  refine ⟨setAccessedBit_unmade, fun hset hclear => ?made, fun k hm hsel hd hf => ⟨fun f hstop => ?fault, fun f hstop => ?refused⟩⟩
  case fault => rw [loadSeg_of_descFault_none hm hsel hd hf, hstop, andThen_fault]
  case refused => rw [loadSeg_of_descFault_none hm hsel hd hf, hstop, andThen_refused]
  case made =>
    rw [setAccessedBit_made hset hclear, hbyte]
    refine ⟨fun code ht => ?_, fun a ht => ?_⟩
    · obtain ⟨f, hf, hmem | ⟨la', hla', code', ht', rfl⟩⟩ := resolve_of_faults (s := s) (kind := .write) (user := false)
        (las := [la]) (others := []) (by simp [pageFault?_eq_some.mpr ⟨code, ht, rfl⟩])
      · cases hmem
      · obtain rfl := List.mem_singleton.mp hla'
        obtain rfl : code' = code := Translation.pageFault.inj (ht'.symm.trans ht)
        rw [hf, andThen_fault]
    · have hphys : [la].map (s.translate .write false) = [a].map .phys := by simp [ht]
      refine ⟨fun hdev => ?_, fun hdev hprog => ?_, fun hdev hprog hwf => ?_⟩
      · rw [resolve_of_device hphys (by simpa using hdev), andThen_refused]
      · rw [resolve_of_translations hphys (by simpa using hdev), andThen_next, storeAt_program _ (by simpa using hprog)]
      · rw [resolve_of_translations hphys (by simpa using hdev), andThen_next, storeAt, if_neg (by simp [hprog])]
        refine ⟨_, rfl, ?_, fun b hb => Memory.read_writeAll_other _ hb, rfl⟩
        simp [Memory.writeAll, Memory.read_write_same _ _ hwf]

/-! ## The load from a descriptor (R155) -/

theorem presentFault_present {k : SReg} {sel : BitVec 16} {d : Word} (hp : d.getLsbD 47 = true) :
    presentFault k sel d = none := if_neg (by simp only [descP, hp]; decide)

/-- A descriptor that meets the conditions of R152 or R153, and is present, passes every test. -/
theorem descFault_eq_none {s : State} {k : SReg} {sel : BitVec 16} {d : Word} (hs : d.getLsbD 44 = true)
    (hp : d.getLsbD 47 = true)
    (hss : k = .ss → sel.extractLsb' 0 2 = s.cpl ∧ d.extractLsb' 45 2 = s.cpl ∧ d.getLsbD 43 = false ∧ d.getLsbD 41 = true)
    (hdata : k ≠ .ss → (d.getLsbD 43 = false ∨ d.getLsbD 41 = true) ∧
      ((d.getLsbD 43 = true ∧ d.getLsbD 42 = true) ∨
        (sel.extractLsb' 0 2 ≤ d.extractLsb' 45 2 ∧ s.cpl ≤ d.extractLsb' 45 2) ∨
        (s.impl.dataSegPrivRule = .both ∧
          (sel.extractLsb' 0 2 ≤ d.extractLsb' 45 2 ∨ s.cpl ≤ d.extractLsb' 45 2)))) : descFault s k sel d = none := by
  by_cases hk : k = .ss
  · subst hk
    obtain ⟨hrpl, hdpl, hkind, hwritable⟩ := hss rfl
    rw [descFault_ss, ssLoadFault_eq, if_neg (by grind), Option.none_or, presentFault_present hp]
  · obtain ⟨hkind, hpriv⟩ := hdata hk
    rw [descFault_of_ne_ss hk, dataLoadFault_eq_none hs hkind (hpriv.imp_right privFail_eq_false), Option.none_or,
      presentFault_present hp]

/-- The limit in bytes, with the granularity of G (R30). -/
theorem descLimit_toNat (d : Word) :
    (descLimit d).toNat =
      (if d.getLsbD 55 = true then (d.extractLsb' 48 4 ++ d.extractLsb' 0 16 : BitVec 20).toNat * 4096 + 4095
        else (d.extractLsb' 48 4 ++ d.extractLsb' 0 16 : BitVec 20).toNat) := by
  simp only [descLimit, descLimit20]
  split
  · rw [BitVec.toNat_append (d.extractLsb' 48 4 ++ d.extractLsb' 0 16) 0xFFF#12,
      ← Nat.shiftLeft_add_eq_or_of_lt (BitVec.isLt _), Nat.shiftLeft_eq]
    rfl
  · exact BitVec.toNat_setWidth_of_le (by decide)

/-- The type is loaded with the accessed bit set (R155). -/
theorem descAttr_type (d : Word) : (descAttr d).type = (d.extractLsb' 41 3 ++ 1#1 : BitVec 4) := by
  refine BitVec.eq_of_getLsbD_eq fun j hj => ?_
  change _ = (d.extractLsb' 41 3 ++ 1#1 : BitVec (3 + 1)).getLsbD j
  rw [BitVec.getLsbD_append]
  interval_cases j <;> simp [descAttr, descType]

/-- The write of the accessed bit leaves all but memory (R63). -/
theorem setAccessedBit_kept {s u : State} {sel : BitVec 16} {d : Word} (h : setAccessedBit s sel d = .next u) :
    RegsKept s u ∧ (∀ j, u.sreg j = s.sreg j) ∧ u.rip = s.rip := by
  obtain rfl | ⟨as, v, -, -, rfl⟩ := setAccessedBit_eq_next h
  · exact ⟨fun _ => rfl, fun _ => rfl, rfl⟩
  · exact ⟨fun _ => rfl, fun j => by simp, rfl⟩

/-- Of memory the write of the accessed bit changes only the byte it resolves, and none where it is not made. -/
theorem setAccessedBit_mem {s u : State} {sel : BitVec 16} {d : Word} (h : setAccessedBit s sel d = .next u) :
    (s.impl.setAccessed = false ∨ d.getLsbD 40 = true → MemKept s u) ∧
      ∀ as, resolve s [] .write false ((descAddrs s sel).drop 5 |>.take 1) = .next as → MemKeptBut as s u := by
  refine ⟨fun hno a => ?_, fun as has a ha => ?_⟩
  · rw [setAccessedBit_unmade hno] at h
    cases h
    rfl
  · obtain rfl | ⟨as', v, hres, -, rfl⟩ := setAccessedBit_eq_next h
    · rfl
    · cases hres.symm.trans has
      exact Memory.read_writeAll_other v ha

/-- Settles O40: the tests pass, the accessed bit is written, and the register takes the descriptor's fields. -/
theorem descriptorLoads : Obligations.DescriptorLoads := by
  unfold Obligations.DescriptorLoads
  intro p reg rm k sel d u s hl hr hk hcs hm hsel hd hs hp hss hdata hu i o (hi : IsSregLoad p reg rm s i o) hread
  have hload : loadSeg s k sel = .next (loadFromDesc u k sel d) := by
    rw [loadSeg_of_descFault_none hm hsel hd (descFault_eq_none hs hp hss hdata), hu, andThen_next]
  rw [hi.exec_of_readSel hl hr hk hcs hread, hload]
  obtain ⟨hregs, hsregs, hrip⟩ := setAccessedBit_kept hu
  obtain ⟨hunmade, hmade⟩ := setAccessedBit_mem hu
  have hmem : (completeLoad s.ssInhibit k (loadFromDesc u k sel d) i.length).mem = u.mem := by
    rw [completeLoad_mem, loadFromDesc, setSreg_mem]
  refine ⟨_, rfl, ?_⟩
  rw [completeLoad_sreg, loadFromDesc, sreg_setSreg_same]
  exact ⟨rfl, rfl, descLimit_toNat d, descAttr_type d, rfl, hp, hs, rfl, rfl, rfl, rfl, rfl, hmem,
    fun hno a => (congrArg (Memory.read · a) hmem).trans (hunmade hno a),
    fun as has a ha => (congrArg (Memory.read · a) hmem).trans (hmade as has a ha),
    sregMove_setSreg _ hcs hregs hsregs ((SystemAndCsKept.refl s).after_setAccessedBit hu) hrip⟩

/-! ## The operand size of a load (R142, R143, R162) -/

/-- The same outcome but for `pc`. -/
def SameButPc (x y : Res State) : Prop :=
  (∀ t, x = .next t → ∃ u, y = .next u ∧ u = { t with rip := u.rip }) ∧
    (∀ f, x = .fault f → y = .fault f) ∧ ∀ f, x = .refused f → y = .refused f

theorem SameButPc.of_fault (f : Fault) : SameButPc (.fault f) (.fault f) :=
  ⟨fun _ h => (by cases h), fun _ h => h, fun _ h => (by cases h)⟩

theorem SameButPc.of_refused (f : Refusal) : SameButPc (.refused f) (.refused f) :=
  ⟨fun _ h => (by cases h), fun _ h => (by cases h), fun _ h => h⟩

theorem SameButPc.of_next {t u : State} (h : u = { t with rip := u.rip }) : SameButPc (.next t) (.next u) :=
  ⟨fun _ ht => ⟨u, rfl, by cases ht; exact h⟩, fun _ h => (by cases h), fun _ h => (by cases h)⟩

theorem SameButPc.andThen {α : Type} (r : Res α) {f g : α → Res State} (h : ∀ a, SameButPc (f a) (g a)) :
    SameButPc (Machine.andThen r f) (Machine.andThen r g) := by
  cases r with
  | next a => exact h a
  | fault x => exact .of_fault x
  | refused x => exact .of_refused x

/-- Two lengths give completions of a load that differ in `pc` alone. -/
theorem completeLoad_sameButPc (before : Bool) (k : SReg) (t : State) (len len' : Nat) :
    SameButPc (.next (completeLoad before k t len)) (.next (completeLoad before k t len')) := by
  refine .of_next ?_
  unfold completeLoad
  split_ifs <;> rfl

/-- 66H changes neither the address of an operand nor its segment, but for a RIP-relative one through the length (R84, R93). -/
theorem effAddr_opsz {s : State} (p : Prefixes) (len len' : Nat) {m : MemRef}
    (h : s.mode = .long64 → ∀ d, m ≠ .disp32 d) : effAddr s { p with opsz := true } len' m = effAddr s p len m := by
  cases m with
  | disp32 d =>
    have hm : s.mode ≠ .long64 := fun hm => h hm d rfl
    rw [effAddr_disp32_of_ne_long64 _ _ _ hm, effAddr_disp32_of_ne_long64 _ _ _ hm]
    rfl
  | _ => rfl

theorem memSeg_opsz (s : State) (p : Prefixes) (m : MemRef) : memSeg s { p with opsz := true } m = memSeg s p m := by
  cases m with
  | based16 b d => cases b <;> rfl
  | _ => rfl

/-- The selector read does not depend on 66H where as many bytes of memory are read (R142, R143, R147). -/
theorem readSel_opsz {s : State} (p : Prefixes) (len len' : Nat) {o o' : OpSize} {rm : RM}
    (hrip : s.mode = .long64 → ∀ d, rm ≠ .mem (.disp32 d)) (hbytes : (∃ m, rm = .mem m) → sregMemBytes s o' = sregMemBytes s o) :
    readSel s { p with opsz := true } len' o' rm = readSel s p len o rm := by
  cases rm with
  | reg n => rfl
  | mem m =>
    have hm : s.mode = .long64 → ∀ d, m ≠ .disp32 d := fun hm d hd => hrip hm d (hd ▸ rfl)
    simp only [readSel, effAddr_opsz p len len' hm, memSeg_opsz, hbytes ⟨m, rfl⟩]

theorem IsSregLoad.exec_rexR {p : Prefixes} {reg : BitVec 3} {rm : RM} {s : State} {i : Instr} {o : OpSize}
    (hi : IsSregLoad p reg rm s i o) (hl : p.lock = false) (hr : p.r = true) : exec i s = .refused .rexROnSreg := by
  obtain ⟨hexec, rfl⟩ := hi.exec_eq
  exact hexec.trans (runSreg_rexR _ hl hr)

/-- A field names a register that can be loaded, or its load is `#UD` (R144, R145). -/
theorem sregOfField_cases (reg : BitVec 3) :
    (reg = 1#3 ∨ reg = 6#3 ∨ reg = 7#3) ∨ ∃ k, sregOfField reg = some k ∧ k ≠ .cs := by
  revert reg
  decide

/-- Two loads whose selector operands read the same have the same outcome but for `pc`. -/
theorem sregLoad_sameButPc {p q : Prefixes} {reg : BitVec 3} {rm : RM} {s : State} {i j : Instr} {o o' : OpSize}
    (hi : IsSregLoad p reg rm s i o) (hj : IsSregLoad q reg rm s j o') (hlp : p.lock = false) (hlq : q.lock = false)
    (hr : q.r = p.r) (hsel : readSel s q j.length o' rm = readSel s p i.length o rm) : SameButPc (exec i s) (exec j s) := by
  cases hrp : p.r with
  | true =>
    rw [hi.exec_rexR hlp hrp, hj.exec_rexR hlq (hr.trans hrp)]
    exact .of_refused _
  | false =>
    obtain hud | ⟨k, hk, hcs⟩ := sregOfField_cases reg
    · rw [hi.exec_ud hlp hrp hud, hj.exec_ud hlq (hr.trans hrp) hud]
      exact .of_fault _
    · rw [hi.exec_unlocked hlp hrp hk hcs, hj.exec_unlocked hlq (hr.trans hrp) hk hcs, hsel]
      exact .andThen _ fun sel => .andThen _ fun t => completeLoad_sameButPc _ _ _ _ _

/-- Settles O47: 66H is seen neither by the operand nor by `LoadSeg`, only by the length. -/
theorem operandSizeIrrelevantToSegmentLoad : Obligations.OperandSizeIrrelevantToSegmentLoad := by
  unfold Obligations.OperandSizeIrrelevantToSegmentLoad
  rintro p q reg rm s i j hl - rfl hrip hij
  have hsame : SameButPc (exec i s) (exec j s) := by
    obtain ⟨rfl, rfl, htwo⟩ | ⟨rfl, rfl⟩ := hij
    · refine sregLoad_sameButPc (.inl ⟨rfl, rfl⟩) (.inl ⟨rfl, rfl⟩) hl hl rfl (readSel_opsz p _ _ hrip fun hmem => ?_)
      have hbytes : ∀ o, sregMemBytes s o = 2 := fun o => by cases o <;> simp [sregMemBytes, htwo hmem]
      rw [hbytes, hbytes]
    · exact sregLoad_sameButPc (.inr ⟨rfl, rfl⟩) (.inr ⟨rfl, rfl⟩) hl hl rfl (readSel_opsz p _ _ hrip fun _ => rfl)
  refine ⟨fun t ht => ?_, hsame.2.1, hsame.2.2⟩
  obtain ⟨u, hu, heq⟩ := hsame.1 t ht
  exact ⟨u, hu, heq, pcAdvancesByTheLength i s t ht, pcAdvancesByTheLength j s u hu⟩

end Sys2Proof.Machine

/-! PROOF. Which exceptions a MOV raises, mode by mode (O51): the faults of each shared operation, then of each shared move. -/

namespace Sys2Proof.Machine

/-- A sequence faults where its first part does, or its second on the value of the first. -/
theorem andThen_eq_fault {α β : Type} {r : Res α} {f : α → Res β} {x : Fault} (h : andThen r f = .fault x) :
    r = .fault x ∨ ∃ a, r = .next a ∧ f a = .fault x := by
  cases r with
  | next a => exact .inr ⟨a, rfl, h⟩
  | fault y =>
    cases h
    exact .inl rfl
  | refused y => cases h

/-- A guarded operation faults with the guard's fault, or without one with its own. -/
theorem guardFault_eq_fault {α : Type} {f : Option Fault} {k : Res α} {x : Fault} (h : guardFault f k = .fault x) :
    f = some x ∨ k = .fault x := by
  cases f with
  | none => exact .inr h
  | some y =>
    cases h
    exact .inl rfl

/-- The exceptions of a MOV but for those of `LoadSeg`: `#UD`, `#GP` and `#SS` with the code-0 error code of the mode, and,
outside `Real`, page faults and `#AC` (R210, R219, R220). -/
inductive MoveFault (s : State) : Fault → Prop where
  | ud : MoveFault s .ud
  | gp : MoveFault s (.gp s.zeroCode)
  | ss : MoveFault s (.ss s.zeroCode)
  | pf (code : BitVec 32) (la : Word) (hm : s.mode ≠ .real) : MoveFault s (.pf code la)
  | ac (hm : s.mode ≠ .real) : MoveFault s .ac

section
variable {s : State} {f : Fault}

theorem moveFault_encoding {i : Instr} (h : encodingFault s i = some f) : MoveFault s f := by
  have hmem := chooseFault_mem h
  simp only [List.mem_append] at hmem
  obtain hud | hgp := hmem
  · split at hud
    · exact List.mem_singleton.mp hud ▸ .ud
    · cases hud
  · split at hgp
    · exact List.mem_singleton.mp hgp ▸ .gp
    · cases hgp

theorem moveFault_addressFault (s : State) (k : SReg) : MoveFault s (s.addressFault k) := by
  unfold State.addressFault
  split
  · exact .ss
  · exact .gp

theorem moveFault_segFault {k : SReg} {off : Word} {n : Nat} {kind : AccessKind} (h : segFault s k off n kind = some f) :
    MoveFault s f := by
  by_cases hprot : s.mode = .prot ∨ s.mode = .compat
  · have hzero : s.zeroCode = .zero := zeroCode_of_ne_real (by rintro hreal; simp [hreal] at hprot)
    rw [segFault_of_protected hprot, ← hzero] at h
    iterate 3
      replace h := ite_eq_iff.mp h
      obtain ⟨-, h⟩ | ⟨-, h⟩ := h
      · exact Option.some.inj h ▸ .gp
    replace h := ite_eq_iff.mp h
    obtain ⟨-, h⟩ | ⟨-, h⟩ := h
    · cases h
    · exact Option.some.inj h ▸ moveFault_addressFault s k
  · by_cases hm : s.mode = .long64
    · rw [segFault_long64 k off n kind hm] at h
      cases h
    · rw [segFault_of_limit hm fun hp => absurd hp hprot] at h
      replace h := ite_eq_iff.mp h
      obtain ⟨-, h⟩ | ⟨-, h⟩ := h
      · cases h
      · exact Option.some.inj h ▸ moveFault_addressFault s k

theorem moveFault_canonical {k : SReg} {las : List Word} (h : canonicalFault s k las = some f) : MoveFault s f := by
  replace h := ite_eq_iff.mp h
  obtain ⟨-, h⟩ | ⟨-, h⟩ := h
  · exact Option.some.inj h ▸ moveFault_addressFault s k
  · cases h

/-- A page fault is possible only where an address is translated (R62). -/
theorem moveFault_pageFault {kind : AccessKind} {user : Bool} {la : Word} (h : pageFault? s kind user la = some f) :
    MoveFault s f := by
  obtain ⟨code, ht, rfl⟩ := pageFault?_eq_some.mp h
  refine .pf code la fun hreal => ?_
  rw [translate_identity kind user la (.inl hreal)] at ht
  cases ht

theorem moveFault_resolve {others : List Fault} {kind : AccessKind} {user : Bool} {las : List Word}
    (hothers : ∀ g ∈ others, MoveFault s g) (h : resolve s others kind user las = .fault f) : MoveFault s f := by
  obtain h | h := guardFault_eq_fault h
  · obtain hmem | hmem := List.mem_append.mp (chooseFault_mem h)
    · exact hothers f hmem
    · obtain ⟨la, -, hpf⟩ := List.mem_filterMap.mp hmem
      exact moveFault_pageFault hpf
  · split at h <;> cases h

theorem moveFault_dataAddrs {k : SReg} {off : Word} {n : Nat} {kind : AccessKind} (h : dataAddrs s k off n kind = .fault f) :
    MoveFault s f := by
  obtain h | h := guardFault_eq_fault h
  · exact moveFault_segFault h
  obtain h | h := guardFault_eq_fault h
  · exact moveFault_canonical h
  refine moveFault_resolve (fun g hg => ?_) h
  unfold alignFaults at hg
  split at hg
  · next hcond => exact List.mem_singleton.mp hg ▸ .ac hcond.1
  · cases hg

theorem moveFault_segRead {k : SReg} {off : Word} {n : Nat} (h : segRead s k off n = .fault f) : MoveFault s f := by
  obtain h | ⟨as, -, h⟩ := andThen_eq_fault h
  · exact moveFault_dataAddrs h
  · cases h

theorem moveFault_segWrite {k : SReg} {off : Word} {n : Nat} {v : Word} (h : segWrite s k off n v = .fault f) :
    MoveFault s f := by
  obtain h | ⟨as, -, h⟩ := andThen_eq_fault h
  · exact moveFault_dataAddrs h
  · unfold storeAt at h
    split at h <;> cases h

theorem moveFault_runMove {i : Instr} {move : Res State} (hmove : move = .fault f → MoveFault s f)
    (h : runMove i s move = .fault f) : MoveFault s f := by
  obtain h | h := guardFault_eq_fault h
  · exact moveFault_encoding h
  obtain h | ⟨u, -, h⟩ := andThen_eq_fault h
  · exact hmove h
  · cases h

theorem moveFault_readRM {p : Prefixes} {len : Nat} {w : Width} {rm : RM} (h : readRM s p len w rm = .fault f) :
    MoveFault s f := by
  cases rm with
  | reg n => cases h
  | mem m => exact moveFault_segRead h

theorem moveFault_writeRM {p : Prefixes} {len : Nat} {w : Width} {v : Word} {rm : RM} (h : writeRM s p len w v rm = .fault f) :
    MoveFault s f := by
  cases rm with
  | reg n => cases h
  | mem m => exact moveFault_segWrite h

theorem moveFault_readSel {p : Prefixes} {len : Nat} {o : OpSize} {rm : RM} (h : readSel s p len o rm = .fault f) :
    MoveFault s f := by
  cases rm with
  | reg n => cases h
  | mem m =>
    obtain h | ⟨v, -, h⟩ := andThen_eq_fault h
    · exact moveFault_segRead h
    · cases h

theorem moveFault_moveFromSreg {i : Instr} {o : OpSize} {reg : BitVec 3} {rm : RM} (h : moveFromSreg i o reg rm s = .fault f) :
    MoveFault s f := by
  obtain h | h := guardFault_eq_fault h
  · exact moveFault_encoding h
  split at h
  · cases h
  · split at h
    · cases h
      exact .ud
    · obtain h | ⟨u, -, h⟩ := andThen_eq_fault h
      · cases rm with
        | reg n => cases h
        | mem m => exact moveFault_segWrite h
      · cases h

/-- Only 8E can raise more: an exception of `LoadSeg` (R161). -/
theorem moveFault_moveToSreg {i : Instr} {o : OpSize} {reg : BitVec 3} {rm : RM} (h : moveToSreg i o reg rm s = .fault f) :
    MoveFault s f ∨ ∃ k sel, loadSeg s k sel = .fault f := by
  obtain h | h := guardFault_eq_fault h
  · exact .inl (moveFault_encoding h)
  split at h
  · cases h
  · split at h
    · cases h
      exact .inl .ud
    · cases h
      exact .inl .ud
    · next k _ _ =>
      obtain h | ⟨sel, -, h⟩ := andThen_eq_fault h
      · exact .inl (moveFault_readSel h)
      · obtain h | ⟨u, -, h⟩ := andThen_eq_fault h
        · exact .inr ⟨k, sel, h⟩
        · cases h

/-- Everything an instruction can raise: an exception of the operand or of the encoding, or for 8E one of `LoadSeg`. -/
theorem exec_eq_fault {i : Instr} (h : exec i s = .fault f) :
    MoveFault s f ∨ (∃ p reg rm, i = .movSregRm16 p reg rm ∨ i = .movSregRm64 p reg rm) ∧
      ∃ k sel, loadSeg s k sel = .fault f := by
  cases i with
  | movRm8R8 | movRm8R8Rex | movRm16R16 | movRm32R32 | movRm64R64
  | movRm8Imm8 | movRm8Imm8Rex | movRm16Imm16 | movRm32Imm32 | movRm64Imm32 =>
    exact .inl (moveFault_runMove moveFault_writeRM h)
  | movR8Rm8 | movR8Rm8Rex | movR16Rm16 | movR32Rm32 | movR64Rm64 =>
    refine .inl (moveFault_runMove (fun h => ?_) h)
    obtain h | ⟨v, -, h⟩ := andThen_eq_fault h
    · exact moveFault_readRM h
    · cases h
  | movAlMoffs8 | movAlMoffs8RexW | movAxMoffs16 | movEaxMoffs32 | movRaxMoffs64 =>
    refine .inl (moveFault_runMove (fun h => ?_) h)
    obtain h | ⟨v, -, h⟩ := andThen_eq_fault h
    · exact moveFault_segRead h
    · cases h
  | movMoffs8Al | movMoffs8AlRexW | movMoffs16Ax | movMoffs32Eax | movMoffs64Rax =>
    exact .inl (moveFault_runMove moveFault_segWrite h)
  | movR8Imm8 | movR8Imm8Rex | movR16Imm16 | movR32Imm32 | movR64Imm64 =>
    exact .inl (moveFault_runMove (fun h => by cases h) h)
  | movRm16Sreg | movRm64Sreg => exact .inl (moveFault_moveFromSreg h)
  | movSregRm16 p reg rm => exact (moveFault_moveToSreg h).imp_right fun hload => ⟨⟨p, reg, rm, .inl rfl⟩, hload⟩
  | movSregRm64 p reg rm => exact (moveFault_moveToSreg h).imp_right fun hload => ⟨⟨p, reg, rm, .inr rfl⟩, hload⟩

/-- Where loads are not checked, they raise nothing (R149). -/
theorem loadSeg_ne_fault {k : SReg} {sel : BitVec 16} (hm : s.mode = .real ∨ s.mode = .v86) : loadSeg s k sel ≠ .fault f := by
  obtain hm | hm := hm
  · rw [loadSeg_real k sel hm]
    exact fun h => by cases h
  · rw [loadSeg_v86 k sel hm]
    exact fun h => by cases h

theorem moveFault_of_unchecked {i : Instr} (hm : s.mode = .real ∨ s.mode = .v86) (h : exec i s = .fault f) :
    MoveFault s f := by
  obtain hf | ⟨-, k, sel, hload⟩ := exec_eq_fault h
  · exact hf
  · exact absurd hload (loadSeg_ne_fault hm)

/-- No exception but those of `LoadSeg` carries a selector (R213, R215, R216). -/
theorem MoveFault.no_selector (h : MoveFault s f) (sel : BitVec 16) :
    f ≠ .gp (.selector sel) ∧ f ≠ .ss (.selector sel) ∧ f ≠ .np sel := by
  have hzero : s.zeroCode ≠ .selector sel := by
    unfold State.zeroCode
    split <;> simp
  cases h <;> simp [hzero]

end

/-- Settles O51. -/
theorem exceptionsByModeAndCause : Obligations.ExceptionsByModeAndCause := by
  unfold Obligations.ExceptionsByModeAndCause
  refine ⟨fun i s f h => ⟨fun hm => ?real, fun hm => ?v86⟩, fun i s sel h => ?selector⟩
  case real =>
    have hzero : s.zeroCode = .absent := if_pos hm
    cases moveFault_of_unchecked (.inl hm) h with
    | ud => exact .inl rfl
    | gp => exact .inr (.inl (by rw [hzero]))
    | ss => exact .inr (.inr (by rw [hzero]))
    | pf code la hreal => exact absurd hm hreal
    | ac hreal => exact absurd hm hreal
  case v86 =>
    have hzero : s.zeroCode = .zero := zeroCode_of_ne_real (by simp [hm])
    cases moveFault_of_unchecked (.inr hm) h with
    | ud => exact .inl rfl
    | gp => exact .inr (.inl (by rw [hzero]))
    | ss => exact .inr (.inr (.inl (by rw [hzero])))
    | pf code la => exact .inr (.inr (.inr (.inr ⟨code, la, rfl⟩)))
    | ac => exact .inr (.inr (.inr (.inl rfl)))
  case selector =>
    have hcause : ∀ f, exec i s = .fault f → ¬ MoveFault s f → ∃ p reg rm, i = .movSregRm16 p reg rm ∨ i = .movSregRm64 p reg rm :=
      fun f hf hnot => ((exec_eq_fault hf).resolve_left hnot).1
    obtain h | h | h := h
    · exact hcause _ h fun hf => (hf.no_selector sel).1 rfl
    · exact hcause _ h fun hf => (hf.no_selector sel).2.1 rfl
    · exact hcause _ h fun hf => (hf.no_selector sel).2.2 rfl

end Sys2Proof.Machine
